-- ==== Sys2Proof/Word.lean ====
section
/-! DEFINITION. The widths of 00_scope.md R6 and R8: a register cell is one byte, a transaction is one 16-bit word, the
Register Bank is an ordered sequence of 32 cells (10_state.md R20). -/

namespace Sys2Proof

/-- A register value: an unsigned 8-bit byte (R8; `DATA_WIDTH` = 8, R6). -/
abbrev Byte := BitVec 8

/-- A transaction word (30_encoding.md R71). -/
abbrev Word := BitVec 16

/-- The Register Bank: 32 one-byte cells, index 0 to 31 (R20; `BANK_SIZE` = 32, R6). Log entry 1. -/
abbrev Bank := Vector Byte 32

end Sys2Proof
end

