-- ==== Sys2Proof/Config.lean ====
section
/-! DEFINITION. What is fixed at construction (the parameters of 00_scope.md R6) and what comes in from outside (the host-time
tuple of 45_host_sync_lifecycle.md R210). Neither is state of the CORE (10_state.md R43). The values this hardware takes
stand in Machine/Hardware.lean; the two OPEN parameters are the opaque constants below. -/

namespace Sys2Proof

/-- The interrupt conditions of 60_exceptions.md R241, R242. TENTHS only fills the bit layout: no operation records it. -/
inductive Condition where
  | compare
  | tenths
  | seconds
  | minutes
  | hours
  | day
  | week
  | month
  deriving DecidableEq, Repr

/-- The parameters a model of the CORE takes (R6). `DATA_WIDTH`, `BANK_SIZE` and `ADDR_BITS` are fixed in the types. -/
structure Config where
  /-- `YEAR_IDX`: the designated year register, or `none`. -/
  yearIdx : Option (Fin 32)
  /-- `EPOCH_BASE`: the calendar year that the year register's 0 stands for. -/
  epochBase : Nat
  /-- `IO_BASE`: the first port of the 32-port window. -/
  ioBase : Nat
  /-- `IRQ_LINE`: the interrupt line's identifier, or `none`. -/
  irqLine : Option Nat
  /-- `IS_LEAP`: a predicate on calendar years. -/
  isLeap : Nat → Bool
  /-- `WILDCARD_MASK`: the bits an alarm byte has all set when it matches anything. -/
  wildcardMask : Byte
  /-- `INT_BIT`: the bit of `ISTAT` and `ICTRL` that belongs to a condition. -/
  intBit : Condition → Fin 8
  /-- `COMPARE_GATED`: whether COMPARE needs its bit of `ICTRL`. -/
  compareGated : Bool
  /-- `TICK_STEP`: the step of the increments of a TICK. -/
  tickStep : Nat

/-- `IO_BASE` of this hardware: OPEN, no source fixes it (R6, D5). A free value; log entry 16. -/
opaque Config.hardwareIoBase : Nat

/-- `IRQ_LINE` of this hardware: OPEN, no source fixes it, not even whether there is one (R6, D6). A free value; log entry 16. -/
opaque Config.hardwareIrqLine : Option Nat

/-- The host-time tuple `H` that a Load samples (R210). The fields are unbounded integers, because Load checks nothing
(R218); which tuples are valid is `HostTime.valid`. -/
structure HostTime where
  year : Int
  month : Int
  day : Int
  hour : Int
  minute : Int
  second : Int
  weekday : Int
  deriving DecidableEq, Repr

end Sys2Proof
end

