-- ==== Sys2Proof/Machine/Hardware.lean ====
section
/-! DEFINITION. The values this hardware takes for the parameters of 00_scope.md R6, and the host-time sample of the model's
reset state. -/

namespace Sys2Proof

namespace LeapRule

/-- `GREGORIAN` (R7). -/
def gregorian (y : Nat) : Bool := (decide (y % 4 = 0) && decide (y % 100 ≠ 0)) || decide (y % 400 = 0)

/-- `NONE`: no year is a leap year (R7). -/
def none (_y : Nat) : Bool := false

/-- `DIV4` (R7). -/
def div4 (y : Nat) : Bool := decide (y % 4 = 0)

end LeapRule

/-- The default `INT_BIT` (R6, 60_exceptions.md R242). Log entry 13. -/
def Config.defaultIntBit : Condition → Fin 8
  | .compare => 0
  | .tenths => 1
  | .seconds => 2
  | .minutes => 3
  | .hours => 4
  | .day => 5
  | .week => 6
  | .month => 7

/-- This hardware's parameters (R6): every value or default that the table gives, and the two OPEN ones as free values. -/
def Config.hardware : Config where
  yearIdx := some 14
  epochBase := 1980
  ioBase := Config.hardwareIoBase
  irqLine := Config.hardwareIrqLine
  isLeap := LeapRule.gregorian
  wildcardMask := 0xC0#8
  intBit := Config.defaultIntBit
  compareGated := false
  tickStep := 1

/-- The host-time sample of the RESET that `State.reset` comes after: the sample of the worked example of
70_reset_and_hazards.md R270, 2025-11-01 18:43:27, weekday 6. DESIGN CHOICE, unsafe: the spec leaves the sample to the host
(U7). Log entry 6. -/
def HostTime.resetSample : HostTime where
  year := 2025
  month := 11
  day := 1
  hour := 18
  minute := 43
  second := 27
  weekday := 6

end Sys2Proof
end

