-- ==== Sys2Proof/Machine/Fields.lean ====
section
/-! DEFINITION. The names of the cells (00_scope.md R10; field map 10_state.md R21). -/

namespace Sys2Proof.Machine

@[simp] abbrev MS : Nat := 0
@[simp] abbrev HS : Nat := 1
@[simp] abbrev SEC : Nat := 2
@[simp] abbrev MIN : Nat := 3
@[simp] abbrev HR : Nat := 4
@[simp] abbrev DOW : Nat := 5
@[simp] abbrev DOM : Nat := 6
@[simp] abbrev MON : Nat := 7
@[simp] abbrev A_MS : Nat := 8
@[simp] abbrev A_HS : Nat := 9
@[simp] abbrev A_SEC : Nat := 10
@[simp] abbrev A_MIN : Nat := 11
@[simp] abbrev A_HR : Nat := 12
@[simp] abbrev A_DOW : Nat := 13
/-- The alarm counterpart of `DOM`; in this hardware also the year (R30). -/
@[simp] abbrev A_DOM : Nat := 14
@[simp] abbrev A_MON : Nat := 15
@[simp] abbrev ISTAT : Nat := 16
@[simp] abbrev ICTRL : Nat := 17
@[simp] abbrev RSTCNT : Nat := 18
@[simp] abbrev RSTRAM : Nat := 19
@[simp] abbrev STATUS : Nat := 20
@[simp] abbrev GO : Nat := 21
@[simp] abbrev STBY : Nat := 22
@[simp] abbrev TEST : Nat := 31

end Sys2Proof.Machine
end

