-- ==== Sys2Proof/Machine/Bank.lean ====
section
/-! DEFINITION. The one home of the 32 cells and the two accessors through which everything reads and writes them
(00_scope.md R9; 10_state.md R20, R44). -/

namespace Sys2Proof.Machine

/-- `x[i]`. An index outside the bank reads the all-ones sentinel (R44); no transaction can carry one. -/
def cell (b : Bank) (i : Nat) : Byte := if h : i < 32 then b[i] else 0xFF#8

/-- `x[i] <- v`. A write outside the bank is a no-op (R44). -/
def store (b : Bank) (i : Nat) (v : Byte) : Bank := if h : i < 32 then b.set i v else b

/-- The bank after `for i in 0..31: x[i] <- 0x00` (42_port_interface.md R128, 45_host_sync_lifecycle.md R220). -/
def zeroBank : Bank := Vector.replicate 32 0x00#8

end Sys2Proof.Machine
end

