-- ==== Sys2Proof/Machine/Codec.lean ====
section
/-! DEFINITION. The BCD codec (41_bcd_codec.md R100-R108): pure functions, no state. -/

namespace Sys2Proof.Machine

/-- The tens digit, bits [7:4] (R100). -/
def tens (b : Byte) : Nat := (b.extractLsb' 4 4).toNat

/-- The units digit, bits [3:0] (R100). -/
def units (b : Byte) : Nat := (b.extractLsb' 0 4).toNat

/-- The byte `{t, u}` with the tens digit in the high nibble (R100, R101). -/
def nibbles (t u : Nat) : Byte := (BitVec.ofNat 4 t ++ BitVec.ofNat 4 u : BitVec (4 + 4))

/-- `isBCD` (R103): both nibbles are decimal digits. -/
def isBCD (b : Byte) : Bool := decide (tens b ≤ 9) && decide (units b ≤ 9)

/-- `toBCD` (R101): reduce mod 100 (Euclidean), then encode the two digits. Outside 0-99 the spec's D11; log entry 11. -/
def toBCD (n : Int) : Byte := nibbles ((n % 100).toNat / 10) ((n % 100).toNat % 10)

/-- `fromBCD` (R102), the same formula for every byte. On invalid BCD the spec's D10; log entry 9. -/
def fromBCD (b : Byte) : Nat := 10 * tens b + units b

/-- `incBCD` (R104), wrapping at 100 and at no field's modulus (C1). -/
def incBCD (b : Byte) (step : Nat) : Byte := toBCD (((fromBCD b + step) % 100 : Nat) : Int)

end Sys2Proof.Machine
end

