-- ==== Sys2Proof/Machine/Calendar.lean ====
section
/-! DEFINITION. Days in month and the calendar year (43_tick_engine.md R170, R171). -/

namespace Sys2Proof.Machine

/-- `dim(m, y)` (R170). A number that is no month has 31 days (the spec's D14; log entry 10). -/
def dim (c : Config) (m y : Nat) : Nat :=
  match m with
  | 1 | 3 | 5 | 7 | 8 | 10 | 12 => 31
  | 4 | 6 | 9 | 11 => 30
  | 2 => if c.isLeap y then 29 else 28
  | _ => 31

/-- `cal_year()` (R171); `EPOCH_BASE` when there is no year register (R173). -/
def calYear (c : Config) (b : Bank) : Nat :=
  match c.yearIdx with
  | some y => fromBCD (cell b y.val) + c.epochBase
  | none => c.epochBase

end Sys2Proof.Machine
end

