-- ==== Sys2Proof/Machine/Load.lean ====
section
/-! DEFINITION. The Host-Time Synchronizer's Load (45_host_sync_lifecycle.md R211-R219), one function for every trigger (R219),
and the clear that RESET and WR 19 put before it. Both reach the bank directly, not through the write dispatch
(20_memory.md R65). -/

namespace Sys2Proof.Machine

/-- The year write of Load: nothing without a year register (R211, R214). -/
def loadYear (c : Config) (h : HostTime) (b : Bank) : Bank :=
  match c.yearIdx with
  | some y => store b y.val (toBCD (h.year - (c.epochBase : Int)))
  | none => b

/-- `Load()` with the host-time sample `h` (R211), its writes in the spec's order. It checks nothing (R218). -/
def load (c : Config) (h : HostTime) (b : Bank) : Bank :=
  let b := store b SEC (toBCD h.second)
  let b := store b MIN (toBCD h.minute)
  let b := store b HR (toBCD h.hour)
  let b := store b DOW (toBCD (h.weekday + 1))
  let b := store b DOM (toBCD h.day)
  let b := store b MON (toBCD h.month)
  let b := store b MS 0x00#8
  let b := store b HS 0x00#8
  loadYear c h b

/-- Clear all 32 cells, then Load: the bank effect of RESET (R220) and of WR 19 (42_port_interface.md R128). -/
def clearAndLoad (c : Config) (h : HostTime) : Bank := load c h zeroBank

end Sys2Proof.Machine
end

