-- ==== Sys2Proof/Machine/State.lean ====
section
/-! DEFINITION. The machine's state: the 32 cells and the lifecycle state, "and nothing else" (10_state.md, R41), with the
transaction interface around them (30_encoding.md R70): what is still to come in, the host-time input, and what has gone
out. -/

namespace Sys2Proof.Machine

/-- The lifecycle state `life` (R40). -/
inductive Life where
  | uninit
  | running
  | closed
  deriving DecidableEq, Repr

/-- One operation at the transaction interface: its word, and the host-time sample in force while it runs (R70, R78; only a
Load reads it, R210). Log entry 4. -/
structure Transaction where
  word : Word
  host : HostTime
  deriving DecidableEq, Repr

/-- The faults: none. "The CORE has no synchronous exceptions, fault codes or error returns." (60_exceptions.md R240).
Log entry 23. -/
inductive Fault where
  deriving DecidableEq, Repr

/-- Why an operation has no step. -/
inductive Refusal where
  /-- Raised by an arm of `exec` that has no meaning yet; safe. No arm of this model raises it. -/
  | notModelled (mnemonic : String)
  /-- Raised by the two reserved rows: `OP` 101, 110, 111 spell no operation (30_encoding.md R76). Safe: a claim about such a
  stream cannot be proved. -/
  | reservedOp
  /-- Raised by RD, WR and TICK while `life` = UNINIT (45_host_sync_lifecycle.md R225). Safe, for the same reason. -/
  | notConstructed
  /-- Raised by RD, WR, TICK, RESET and CLOSE while `life` = CLOSED (R225). Safe, for the same reason. -/
  | closed
  deriving DecidableEq, Repr

/-- The state. `bank` and `life` are the CORE's (R20, R40); the other fields are the model's picture of its interface. -/
structure State where
  /-- `x[0]` to `x[31]`. -/
  bank : Bank
  /-- `life`. -/
  life : Life
  /-- The operations still to come, oldest first (R59, R70). Log entry 2. -/
  input : List Transaction
  /-- `host_time()` during the operation being run (R210). Log entry 4. -/
  hostTime : HostTime
  /-- The answers of the RDs so far, `rdata`, newest first (42_port_interface.md R120). Log entry 5. -/
  answers : List Byte
  /-- How many interrupt events the CORE has emitted; an event carries no data (60_exceptions.md R247). Log entries 5 and 24. -/
  irqEvents : Nat
  deriving DecidableEq, Repr

/-- Before the first operation (R227): UNINIT, over a bank whose contents "are not defined": any. Log entry 8. -/
def State.initial (b : Bank) : State where
  bank := b
  life := .uninit
  input := []
  hostTime := HostTime.resetSample
  answers := []
  irqEvents := 0

/-- The state after RESET (70_reset_and_hazards.md R270), the RESET's host-time sample being `HostTime.resetSample`, with
nothing pending and nothing put out. Log entries 2, 5, 6. -/
def State.reset : State where
  bank := clearAndLoad Config.hardware HostTime.resetSample
  life := .running
  input := []
  hostTime := HostTime.resetSample
  answers := []
  irqEvents := 0

end Sys2Proof.Machine
end

