-- ==== Sys2Proof/Machine/Ops.lean ====
section
/-! DEFINITION. The shared operations over the state. The CORE takes no exception and returns from none (60_exceptions.md R240,
R251, R252), so there is no operation for either: the nearest thing is `signalIrq`. -/

namespace Sys2Proof.Machine

/-- How an operation of the CORE ends. -/
abbrev Result := Host.Outcome State Fault Refusal

/-- The state with another bank. -/
def State.withBank (s : State) (b : Bank) : State := { s with bank := b }

/-- The state with another lifecycle state. -/
def State.withLife (s : State) (l : Life) : State := { s with life := l }

/-- `rdata <- v` (42_port_interface.md R120): answer an RD. -/
def State.answer (s : State) (v : Byte) : State := { s with answers := v :: s.answers }

/-- `x[i]` of the state (00_scope.md R9). -/
def State.read (s : State) (i : Nat) : Byte := cell s.bank i

/-- `x[i] <- v` (00_scope.md R9). -/
def State.write (s : State) (i : Nat) (v : Byte) : State := s.withBank (store s.bank i v)

/-- "if life ≠ RUNNING then refuse" (42_port_interface.md R120, R122; 43_tick_engine.md R150), and the step otherwise. -/
def whenRunning (s : State) (next : State) : Result :=
  match s.life with
  | .running => .next next
  | .uninit => .refused .notConstructed
  | .closed => .refused .closed

/-- "if life = CLOSED then refuse" (45_host_sync_lifecycle.md R220, R224), and the step otherwise. -/
def unlessClosed (s : State) (next : State) : Result :=
  match s.life with
  | .closed => .refused .closed
  | .running => .next next
  | .uninit => .next next

/-- `signal IRQ` (60_exceptions.md R247): exactly one event if an interrupt line is configured, none otherwise. There is no
line level and no deassert (R248). -/
def signalIrq (c : Config) (s : State) : State :=
  { s with irqEvents := match c.irqLine with
      | some _ => s.irqEvents + 1
      | none => s.irqEvents }

/-- The next transaction at the interface, and the state with it taken off the stream and its host-time sample at the
host-time input (30_encoding.md R70, 20_memory.md R59); `none` when no operation is pending. -/
def takeTransaction (s : State) : Option (Word × State) :=
  match s.input with
  | [] => none
  | t :: rest => some (t.word, { s with input := rest, hostTime := t.host })

end Sys2Proof.Machine
end

