-- ==== Sys2Proof/Machine/Lifecycle.lean ====
section
/-! DEFINITION. RESET, CLOSE (45_host_sync_lifecycle.md R220, R224, R225) and the reserved operation kinds
(30_encoding.md R76). -/

namespace Sys2Proof.Machine

/-- RESET (R220): clear the bank, Load, become RUNNING. Construction from UNINIT, an explicit reset from RUNNING. -/
def execReset (s : State) : Result :=
  unlessClosed s ((s.withBank (clearAndLoad Config.hardware s.hostTime)).withLife .running)

/-- CLOSE (R224): become CLOSED, from UNINIT as well as from RUNNING. -/
def execClose (s : State) : Result := unlessClosed s (s.withLife .closed)

/-- `OP` = 101: "The model refuses it: there is no step, no state changes" (R76). -/
def execReserved5 (_s : State) : Result := .refused .reservedOp

/-- `OP` = 110 or 111: refused (R76). -/
def execReserved67 (_s : State) : Result := .refused .reservedOp

end Sys2Proof.Machine
end

