-- ==== Sys2Proof/Syntax.lean ====
section
/-! DEFINITION. The operations of the transaction interface: one constructor per row of spec/opcode_table.json
(30_encoding.md R79). A field that a row uses is an argument of exactly the width the row leaves it; an ignored field (R75) is
no argument. Log entries 21 and 22. -/

namespace Sys2Proof

/-- One operation of the transaction interface (30_encoding.md R72, R74, R79). -/
inductive Instr where
  /-- `RD a` (0x0000/0xE000): read cell `a` (42_port_interface.md R120). -/
  | rd (a : BitVec 5)
  /-- `WR.STORE` (0x2000/0xF000): plain store to a cell 0-15: time, alarm, year (R123). -/
  | wrStoreClock (a : BitVec 4) (d : Byte)
  /-- `WR.ISTAT` (0x3000/0xFF00): clear the interrupt status (R125). -/
  | wrIstat
  /-- `WR.STORE` (0x3100/0xFF00): plain store to cell 17, `ICTRL` (R123). -/
  | wrStoreIctrl (d : Byte)
  /-- `WR.RSTCNT` (0x3200/0xFF00): zero the sub-second cells (R127). -/
  | wrRstcnt
  /-- `WR.RSTRAM` (0x3300/0xFF00): clear the bank, then Load (R128). -/
  | wrRstram
  /-- `WR.STORE` (0x3400/0xFF00): plain store to cell 20, `STATUS` (R123). -/
  | wrStoreStatus (d : Byte)
  /-- `WR.GO` (0x3500/0xFF00): Load without a clear (R130). -/
  | wrGo
  /-- `WR.STORE` (0x3600/0xFE00): plain store to cell `22 + a`: `STBY`, `RSV23` (R123). -/
  | wrStoreStby (a : BitVec 1) (d : Byte)
  /-- `WR.STORE` (0x3800/0xF800): plain store to cell `24 + a`: `RSV24` to `RSV30`, `TEST` (R123). -/
  | wrStoreTest (a : BitVec 3) (d : Byte)
  /-- `TICK` (0x4000/0xE000): one emulated second elapses (43_tick_engine.md R150). -/
  | tick
  /-- `RESET` (0x6000/0xE000): construction or explicit reset (45_host_sync_lifecycle.md R220). -/
  | reset
  /-- `CLOSE` (0x8000/0xE000): teardown (R224). -/
  | close
  /-- The reserved row 0xA000/0xE000: `OP` = 101 spells no operation (R76). -/
  | reserved5
  /-- The reserved row 0xC000/0xC000: `OP` = 110 or 111 spells no operation (R76). -/
  | reserved67
  deriving DecidableEq, Repr

end Sys2Proof
end

