-- ==== Sys2Proof/Decode.lean ====
section
/-! DEFINITION. The transaction encoding (30_encoding.md R71-R79): the decoder, total on every 16-bit word, and the encoder. -/

namespace Sys2Proof

/-- `OP`, `T[15:13]` (R71). -/
def opField (w : Word) : BitVec 3 := w.extractLsb' 13 3

/-- `A`, `T[12:8]` (R71). -/
def aField (w : Word) : BitVec 5 := w.extractLsb' 8 5

/-- `D`, `T[7:0]` (R71). -/
def dField (w : Word) : Byte := w.extractLsb' 0 8

/-- The sub-decode of `OP` = 001 by `A` alone (R74), each index under the row of R79 that selects it. -/
def decodeWr (a : BitVec 5) (d : Byte) : Instr :=
  match a.toNat with
  | 16 => .wrIstat
  | 17 => .wrStoreIctrl d
  | 18 => .wrRstcnt
  | 19 => .wrRstram
  | 20 => .wrStoreStatus d
  | 21 => .wrGo
  | 22 => .wrStoreStby 0#1 d
  | 23 => .wrStoreStby 1#1 d
  | n => if n < 16 then .wrStoreClock (a.extractLsb' 0 4) d else .wrStoreTest (a.extractLsb' 0 3) d

/-- The operation that a transaction word spells (R72). Ignored fields are not looked at (R75). -/
def decode (w : Word) : Instr :=
  match (opField w).toNat with
  | 0 => .rd (aField w)
  | 1 => decodeWr (aField w) (dField w)
  | 2 => .tick
  | 3 => .reset
  | 4 => .close
  | 5 => .reserved5
  | _ => .reserved67

/-- Why a string of bits is no transaction word. -/
inductive DecodeReject where
  /-- More than one word is announced: every transaction is exactly 16 bits (R71, R77). -/
  | longerThanOneWord
  /-- The number does not fit the word. -/
  | notAWord
  deriving DecidableEq, Repr

/-- Decode a number as one transaction, rejecting by name what is not one 16-bit word (R71, R77). -/
def decodeNumber (nbits w : Nat) : Except DecodeReject Instr :=
  if 16 < nbits then .error .longerThanOneWord
  else if 2 ^ 16 ≤ w then .error .notAWord
  else .ok (decode (BitVec.ofNat 16 w))

/-- The instruction the decoder reads from a word of spec/opcode_table.json, its bits numbered as the table numbers them. -/
def decodeTableWord (nbits w : Nat) : Option Instr :=
  match decodeNumber nbits w with
  | .ok i => some i
  | .error _ => none

/-- `{OP, A, D}` (R71). -/
def mkWord (op : BitVec 3) (a : BitVec 5) (d : Byte) : Word := (op ++ a ++ d : BitVec (3 + 5 + 8))

/-- The canonical word of an operation: ignored fields are zero (R75, R79). -/
def encode : Instr → Word
  | .rd a => mkWord 0b000#3 a 0x00#8
  | .wrStoreClock a d => mkWord 0b001#3 (0b0#1 ++ a : BitVec (1 + 4)) d
  | .wrIstat => mkWord 0b001#3 16#5 0x00#8
  | .wrStoreIctrl d => mkWord 0b001#3 17#5 d
  | .wrRstcnt => mkWord 0b001#3 18#5 0x00#8
  | .wrRstram => mkWord 0b001#3 19#5 0x00#8
  | .wrStoreStatus d => mkWord 0b001#3 20#5 d
  | .wrGo => mkWord 0b001#3 21#5 0x00#8
  | .wrStoreStby a d => mkWord 0b001#3 (0b1011#4 ++ a : BitVec (4 + 1)) d
  | .wrStoreTest a d => mkWord 0b001#3 (0b11#2 ++ a : BitVec (2 + 3)) d
  | .tick => mkWord 0b010#3 0#5 0x00#8
  | .reset => mkWord 0b011#3 0#5 0x00#8
  | .close => mkWord 0b100#3 0#5 0x00#8
  | .reserved5 => mkWord 0b101#3 0#5 0x00#8
  | .reserved67 => mkWord 0b110#3 0#5 0x00#8

/-- One row of the decode table of R79: a word matches it when `(T & mask) = match`. -/
structure OpcodeRow where
  pattern : Word
  mask : Word
  deriving DecidableEq, Repr

/-- The match and mask that R79 gives the row of an operation. -/
def rowOf : Instr → OpcodeRow
  | .rd _ => ⟨0x0000#16, 0xE000#16⟩
  | .wrStoreClock _ _ => ⟨0x2000#16, 0xF000#16⟩
  | .wrIstat => ⟨0x3000#16, 0xFF00#16⟩
  | .wrStoreIctrl _ => ⟨0x3100#16, 0xFF00#16⟩
  | .wrRstcnt => ⟨0x3200#16, 0xFF00#16⟩
  | .wrRstram => ⟨0x3300#16, 0xFF00#16⟩
  | .wrStoreStatus _ => ⟨0x3400#16, 0xFF00#16⟩
  | .wrGo => ⟨0x3500#16, 0xFF00#16⟩
  | .wrStoreStby _ _ => ⟨0x3600#16, 0xFE00#16⟩
  | .wrStoreTest _ _ => ⟨0x3800#16, 0xF800#16⟩
  | .tick => ⟨0x4000#16, 0xE000#16⟩
  | .reset => ⟨0x6000#16, 0xE000#16⟩
  | .close => ⟨0x8000#16, 0xE000#16⟩
  | .reserved5 => ⟨0xA000#16, 0xE000#16⟩
  | .reserved67 => ⟨0xC000#16, 0xC000#16⟩

/-- A word matches a row (R79). -/
def OpcodeRow.selects (r : OpcodeRow) (w : Word) : Bool := w &&& r.mask = r.pattern

end Sys2Proof
end

