-- ==== Sys2Proof/Machine/Operands.lean ====
section
/-! DEFINITION. The operand forms: the index a row's `A` bits stand for (30_encoding.md R73, R79), and the host's ports
(20_memory.md R51, R52), which become that index. -/

namespace Sys2Proof.Machine

/-- The cell of an RD: `index = zext(A)` (R73). -/
def rdIndex (a : BitVec 5) : Nat := a.toNat

/-- The cell of the WR.STORE row 0x2000/0xF000: 0 to 15. -/
def clockIndex (a : BitVec 4) : Nat := a.toNat

/-- The cell of the WR.STORE row 0x3600/0xFE00: 22 or 23. -/
def stbyIndex (a : BitVec 1) : Nat := 22 + a.toNat

/-- The cell of the WR.STORE row 0x3800/0xF800: 24 to 31. -/
def testIndex (a : BitVec 3) : Nat := 24 + a.toNat

/-- The port lies in the window `IO_BASE .. IO_BASE+31` (R51). -/
def inWindow (c : Config) (port : Nat) : Bool := decide (c.ioBase ≤ port) && decide (port < c.ioBase + 32)

/-- `index = (port − IO_BASE) & 0x1F` (R52), for a port in the window. -/
def portIndex (c : Config) (port : Nat) : BitVec 5 := BitVec.ofNat 5 (port - c.ioBase)

/-- `MemRead(port, 1)` (00_scope.md R9): the transaction the platform's bus routes to the CORE, an RD of the port's index. A
port outside the window is not routed (R52). -/
def memRead (c : Config) (port : Nat) : Option Word :=
  if inWindow c port then some (mkWord 0b000#3 (portIndex c port) 0x00#8) else none

/-- `MemWrite(port, 1, v)` (00_scope.md R9): a WR of `v` to the port's index, dispatched by it (R122). -/
def memWrite (c : Config) (port : Nat) (v : Byte) : Option Word :=
  if inWindow c port then some (mkWord 0b001#3 (portIndex c port) v) else none

end Sys2Proof.Machine
end

