-- ==== Sys2Proof/Machine/Port.lean ====
section
/-! DEFINITION. The Port Interface (42_port_interface.md R120-R132): RD and the five tagged write behaviours. None of them runs
the Tick Engine, records a condition or emits an interrupt event (R132). -/

namespace Sys2Proof.Machine

/-- RD (R120, R121): answer the stored byte, and nothing else. -/
def execRd (a : BitVec 5) (s : State) : Result := whenRunning s (s.answer (s.read (rdIndex a)))

/-- The plain store (R123): the byte verbatim, with no range or BCD check. -/
def plainStore (i : Nat) (d : Byte) (s : State) : Result := whenRunning s (s.write i d)

/-- WR.STORE to a cell 0-15 (R123, R124). -/
def execWrStoreClock (a : BitVec 4) (d : Byte) (s : State) : Result := plainStore (clockIndex a) d s

/-- WR.STORE to `ICTRL` (R123). -/
def execWrStoreIctrl (d : Byte) (s : State) : Result := plainStore ICTRL d s

/-- WR.STORE to `STATUS` (R123, 10_state.md R36). -/
def execWrStoreStatus (d : Byte) (s : State) : Result := plainStore STATUS d s

/-- WR.STORE to `STBY` or cell 23 (R123, 10_state.md R37, R38). -/
def execWrStoreStby (a : BitVec 1) (d : Byte) (s : State) : Result := plainStore (stbyIndex a) d s

/-- WR.STORE to a cell 24-31 (R123, 10_state.md R38, R39). -/
def execWrStoreTest (a : BitVec 3) (d : Byte) (s : State) : Result := plainStore (testIndex a) d s

/-- WR.ISTAT (R125): all eight status bits become 0, whatever the data. -/
def execWrIstat (s : State) : Result := whenRunning s (s.write ISTAT 0x00#8)

/-- WR.RSTCNT (R127): the two sub-second cells become 0; cell 18 is not written. -/
def execWrRstcnt (s : State) : Result := whenRunning s ((s.write MS 0x00#8).write HS 0x00#8)

/-- WR.RSTRAM (R128, R129): clear the bank, then Load. -/
def execWrRstram (s : State) : Result := whenRunning s (s.withBank (clearAndLoad Config.hardware s.hostTime))

/-- WR.GO (R130, R131): Load without a clear; cell 21 is not written. -/
def execWrGo (s : State) : Result := whenRunning s (s.withBank (load Config.hardware s.hostTime s.bank))

end Sys2Proof.Machine
end

