-- ==== Sys2Proof/Machine/Alarm.lean ====
section
/-! DEFINITION. The Alarm Matcher (44_alarm_matcher.md R190-R199): a pure function of the bank that TICK step 7 calls. -/

namespace Sys2Proof.Machine

/-- `wild(a)` (R191): every bit of the wildcard mask is set. -/
def wild (c : Config) (a : Byte) : Bool := decide (a &&& c.wildcardMask = c.wildcardMask)

/-- `fieldMatch(l, a)` (R190): the raw bytes are equal (R194), or the alarm byte is a wildcard. -/
def fieldMatch (c : Config) (b : Bank) (live alarm : Nat) : Bool :=
  decide (cell b alarm = cell b live) || wild c (cell b alarm)

/-- `match()` (R190): all five fields. The counterpart of `DOM` is cell 14, which here is the year as well (R192, C5). -/
def alarmMatch (c : Config) (b : Bank) : Bool :=
  fieldMatch c b SEC A_SEC && fieldMatch c b MIN A_MIN && fieldMatch c b HR A_HR &&
    fieldMatch c b DOM A_DOM && fieldMatch c b MON A_MON

end Sys2Proof.Machine
end

