-- ==== Sys2Proof/Machine/Flags.lean ====
section
/-! DEFINITION. The flags: the bits of `ISTAT` and `ICTRL`, which share one layout (60_exceptions.md R242), and how a TICK
gathers its pending set `P` (10_state.md R41). -/

namespace Sys2Proof.Machine

/-- `bit(c) = 1 << INT_BIT(c)` (43_tick_engine.md, shorthand). -/
def conditionBit (c : Config) (k : Condition) : Byte := 0x01#8 <<< (c.intBit k).val

/-- `en(c) = x[ICTRL][INT_BIT(c)]` (43_tick_engine.md, shorthand). -/
def enabled (c : Config) (b : Bank) (k : Condition) : Bool := (cell b ICTRL).getLsbD (c.intBit k).val

/-- A TICK under way: the bank as it stands and the pending set `P` (R41). -/
structure Cascade where
  bank : Bank
  pending : Byte
  deriving DecidableEq, Repr

/-- `P <- P | bit(c)`. -/
def Cascade.pend (c : Config) (k : Condition) (t : Cascade) : Cascade :=
  { t with pending := t.pending ||| conditionBit c k }

/-- `if en(c) then P <- P | bit(c)`: a condition that occurs while its bit is 0 is lost (60_exceptions.md R243). -/
def Cascade.record (c : Config) (k : Condition) (t : Cascade) : Cascade :=
  if enabled c t.bank k then t.pend c k else t

/-- `x[i] <- v` during a TICK, directly and not through the write dispatch (20_memory.md R65). -/
def Cascade.put (i : Nat) (v : Byte) (t : Cascade) : Cascade := { t with bank := store t.bank i v }

/-- `x[i] <- incBCD(x[i], TICK_STEP)` during a TICK. -/
def Cascade.advance (c : Config) (i : Nat) (t : Cascade) : Cascade :=
  t.put i (incBCD (cell t.bank i) c.tickStep)

end Sys2Proof.Machine
end

