-- ==== Sys2Proof/Machine/Tick.lean ====
section
/-! DEFINITION. The Tick Engine (43_tick_engine.md R150), one definition per step; each step that follows a carry stands inside
the step that carries into it, so the cascade stops at the first test that does not hold (R159). The tests on values out of
range are those of R175 (log entries 9 and 10). -/

namespace Sys2Proof.Machine

/-- The year increment of step 6: none without a year register (R158, R173). -/
def tickYear (c : Config) (t : Cascade) : Cascade :=
  match c.yearIdx with
  | some y => t.advance c y.val
  | none => t

/-- Step 6, the year end (R158). -/
def tickStep6 (c : Config) (t : Cascade) : Cascade :=
  if 12 < fromBCD (cell t.bank MON) then tickYear c (t.put MON 0x01#8) else t

/-- Step 5, the month end (R157). `days` was computed in step 4. -/
def tickStep5 (c : Config) (days : Nat) (t : Cascade) : Cascade :=
  if days < fromBCD (cell t.bank DOM) then
    tickStep6 c (((t.put DOM 0x01#8).advance c MON).record c .month)
  else t

/-- The day-of-week part of step 4 (R155): WEEK is recorded on the wrap only. -/
def tickWeekday (c : Config) (t : Cascade) : Cascade :=
  let t := t.advance c DOW
  if 8 ≤ fromBCD (cell t.bank DOW) then (t.put DOW 0x01#8).record c .week else t

/-- The day part of step 4 (R154): the day count uses month and year as they stand before step 5. -/
def tickDay (c : Config) (t : Cascade) : Cascade :=
  let t := t.advance c DOM
  let days := dim c (fromBCD (cell t.bank MON)) (calYear c t.bank)
  tickStep5 c days (t.record c .day)

/-- Step 4, the hours carry (R154). -/
def tickStep4 (c : Config) (t : Cascade) : Cascade :=
  if 24 ≤ fromBCD (cell t.bank HR) then tickDay c (tickWeekday c (t.put HR 0x00#8)) else t

/-- Step 3, the minutes carry (R153). -/
def tickStep3 (c : Config) (t : Cascade) : Cascade :=
  if 60 ≤ fromBCD (cell t.bank MIN) then
    tickStep4 c (((t.put MIN 0x00#8).advance c HR).record c .hours)
  else t

/-- Step 2, the seconds carry (R152). -/
def tickStep2 (c : Config) (t : Cascade) : Cascade :=
  if 60 ≤ fromBCD (cell t.bank SEC) then
    tickStep3 c (((t.put SEC 0x00#8).advance c MIN).record c .minutes)
  else t

/-- Steps 1 to 6: the seconds (R151) and every carry. -/
def tickRollover (c : Config) (b : Bank) : Cascade :=
  tickStep2 c ((Cascade.advance c SEC ⟨b, 0x00#8⟩).record c .seconds)

/-- Step 7, the alarm compare (R160): over the cells as steps 1-6 left them, gated by `ICTRL` only if `COMPARE_GATED`. -/
def tickCompare (c : Config) (t : Cascade) : Cascade :=
  if alarmMatch c t.bank then
    if !c.compareGated || enabled c t.bank .compare then t.pend c .compare else t
  else t

/-- Step 8, the status: a non-empty `P` is ORed into `ISTAT` (R168), directly (20_memory.md R65). -/
def commitStatus (t : Cascade) : Bank :=
  if t.pending = 0x00#8 then t.bank else store t.bank ISTAT (cell t.bank ISTAT ||| t.pending)

/-- Step 8, the event: one for a non-empty `P` (R168, 60_exceptions.md R247). -/
def commitEvent (c : Config) (t : Cascade) (s : State) : State :=
  { s with irqEvents := if t.pending = 0x00#8 then s.irqEvents else (signalIrq c s).irqEvents }

/-- A whole TICK (R150), for a CORE that is RUNNING. -/
def tick (c : Config) (s : State) : State :=
  let t := tickCompare c (tickRollover c s.bank)
  (commitEvent c t s).withBank (commitStatus t)

/-- TICK (R150). -/
def execTick (s : State) : Result := whenRunning s (tick Config.hardware s)

end Sys2Proof.Machine
end

