-- ==== Sys2Proof/Machine/Dispatch.lean ====
section
/-! DEFINITION. One arm per row of spec/opcode_table.json. -/

namespace Sys2Proof.Machine

def exec (i : Instr) (s : State) : Host.Outcome State Fault Refusal :=
  match i with
  | .rd a => Sys2Proof.Machine.execRd a s
  | .wrStoreClock a d => Sys2Proof.Machine.execWrStoreClock a d s
  | .wrIstat => Sys2Proof.Machine.execWrIstat s
  | .wrStoreIctrl d => Sys2Proof.Machine.execWrStoreIctrl d s
  | .wrRstcnt => Sys2Proof.Machine.execWrRstcnt s
  | .wrRstram => Sys2Proof.Machine.execWrRstram s
  | .wrStoreStatus d => Sys2Proof.Machine.execWrStoreStatus d s
  | .wrGo => Sys2Proof.Machine.execWrGo s
  | .wrStoreStby a d => Sys2Proof.Machine.execWrStoreStby a d s
  | .wrStoreTest a d => Sys2Proof.Machine.execWrStoreTest a d s
  | .tick => Sys2Proof.Machine.execTick s
  | .reset => Sys2Proof.Machine.execReset s
  | .close => Sys2Proof.Machine.execClose s
  | .reserved5 => Sys2Proof.Machine.execReserved5 s
  | .reserved67 => Sys2Proof.Machine.execReserved67 s

end Sys2Proof.Machine
end

