-- ==== Sys2Proof/Machine/Step.lean ====
section
/-! DEFINITION. One step: the next operation of the transaction stream runs to completion (20_memory.md R59). -/

namespace Sys2Proof.Machine

/-- One step. With no operation pending nothing happens: what comes next is decided by the stream, not by the CORE
(10_state.md R42). Log entry 3. -/
def step (s : State) : Host.Outcome State Fault Refusal :=
  match takeTransaction s with
  | none => .next s
  | some (w, s') => exec (decode w) s'

/-- `s` with a word as the next transaction: it takes the place of the one pending first, whose host-time sample it keeps; with
none pending, the sample is the one now at the host-time input. Log entry 7. -/
def State.withFetchWord (s : State) (_nbits w : Nat) : State :=
  { s with input := match s.input with
      | [] => [⟨BitVec.ofNat 16 w, s.hostTime⟩]
      | t :: rest => ⟨BitVec.ofNat 16 w, t.host⟩ :: rest }

end Sys2Proof.Machine
end

