-- ==== Sys2Proof/WellFormed.lean ====
section
/-! DEFINITION. The spec's own well-formedness predicates: which operations are spelled (30_encoding.md R76), which host-time
tuples are valid (45_host_sync_lifecycle.md R210, R211), which banks are WF (10_state.md R33). The hardware checks none of
them; statements take them as premises. -/

namespace Sys2Proof

open Sys2Proof.Machine

/-- A row that spells an operation. The reserved rows spell none (R76). Operands need no check: each has exactly the width
its row leaves it. -/
def Instr.wellFormed : Instr → Bool
  | .reserved5 => false
  | .reserved67 => false
  | .rd _ => true
  | .wrStoreClock _ _ => true
  | .wrIstat => true
  | .wrStoreIctrl _ => true
  | .wrRstcnt => true
  | .wrRstram => true
  | .wrStoreStatus _ => true
  | .wrGo => true
  | .wrStoreStby _ _ => true
  | .wrStoreTest _ _ => true
  | .tick => true
  | .reset => true
  | .close => true

/-- `lo ≤ n ≤ hi`. -/
def within (lo hi n : Int) : Bool := decide (lo ≤ n) && decide (n ≤ hi)

/-- A valid host-time tuple (R211): the year is one the register can stand for (1980-2079 here), every other field is in its
range of R210, and the day exists in that month of that year. -/
def HostTime.valid (c : Config) (h : HostTime) : Bool :=
  within c.epochBase (c.epochBase + 99) h.year && within 1 12 h.month && within 1 31 h.day && within 0 23 h.hour &&
    within 0 59 h.minute && within 0 59 h.second && within 0 6 h.weekday &&
    decide (h.day ≤ (dim c h.month.toNat h.year.toNat : Int))

/-- A byte that is valid BCD with a value from `lo` to `hi`. -/
def bcdWithin (lo hi : Nat) (v : Byte) : Bool := isBCD v && decide (lo ≤ fromBCD v) && decide (fromBCD v ≤ hi)

/-- The year register, if there is one, holds valid BCD (R33). -/
def yearWellFormed (c : Config) (b : Bank) : Bool :=
  match c.yearIdx with
  | some y => isBCD (cell b y.val)
  | none => true

/-- A WF bank (R33). -/
def bankWellFormed (c : Config) (b : Bank) : Bool :=
  bcdWithin 0 59 (cell b SEC) && bcdWithin 0 59 (cell b MIN) && bcdWithin 0 23 (cell b HR) &&
    bcdWithin 1 7 (cell b DOW) && bcdWithin 1 12 (cell b MON) && yearWellFormed c b &&
    bcdWithin 1 (dim c (fromBCD (cell b MON)) (calYear c b)) (cell b DOM)

end Sys2Proof
end

