-- ==== Sys2Proof/Safety.lean ====
section
/-! DEFINITION. What claims call a good state. -/

namespace Sys2Proof

open Sys2Proof.Machine

/-- The command cells `RSTCNT`, `RSTRAM` and `GO` hold 0 (10_state.md R35). -/
def commandCellsZero (b : Bank) : Bool :=
  decide (cell b RSTCNT = 0x00#8) && decide (cell b RSTRAM = 0x00#8) && decide (cell b GO = 0x00#8)

/-- While RUNNING, the command cells hold 0 (R35). -/
def commandInvariant (s : State) : Prop := s.life = .running → commandCellsZero s.bank = true

/-- RUNNING over a WF bank (R33): the states the source's invariants speak of. -/
def runningWellFormed (s : State) : Prop := s.life = .running ∧ bankWellFormed Config.hardware s.bank = true

/-- A plain store to a cell that holds the time, the date or the year (cells 2-7 and 14): the one operation that can make a WF
bank non-WF (R34, 70_reset_and_hazards.md R285). -/
def setsClockCell : Instr → Bool
  | .wrStoreClock a _ => (decide (2 ≤ clockIndex a) && decide (clockIndex a ≤ 7)) || decide (clockIndex a = 14)
  | .rd _ => false
  | .wrIstat => false
  | .wrStoreIctrl _ => false
  | .wrRstcnt => false
  | .wrRstram => false
  | .wrStoreStatus _ => false
  | .wrGo => false
  | .wrStoreStby _ _ => false
  | .wrStoreTest _ _ => false
  | .tick => false
  | .reset => false
  | .close => false
  | .reserved5 => false
  | .reserved67 => false

end Sys2Proof
end

