-- ==== Sys2Proof/Certificates/Slice0/Obligations.lean ====
section
/-! DEFINITION. The statements for the provers, from the numbered rules of spec/. The words they are written in stand first.
The stream, the host-time input, the answers and the count of events are the model's picture of the transaction interface (log
entries 2, 4 and 5). -/

namespace Sys2Proof.Claims

open Sys2Proof.Machine

/-- Every cell outside the list is as before. -/
def CellsKeptExcept (written : List Nat) (b b' : Bank) : Prop :=
  ∀ i, i < 32 → i ∉ written → cell b' i = cell b i

/-- Nothing outside the bank has changed: `life`, the stream, the host-time input and everything put out. -/
def OnlyBankChanged (s t : State) : Prop :=
  t.life = s.life ∧ t.input = s.input ∧ t.hostTime = s.hostTime ∧ t.answers = s.answers ∧ t.irqEvents = s.irqEvents

/-- The table of 70_reset_and_hazards.md R270 for the host-time sample `h`. -/
def ResetTable (h : HostTime) (b : Bank) : Prop :=
  cell b 0 = 0x00#8 ∧ cell b 1 = 0x00#8 ∧ cell b 2 = toBCD h.second ∧ cell b 3 = toBCD h.minute ∧
    cell b 4 = toBCD h.hour ∧ cell b 5 = toBCD (h.weekday + 1) ∧ cell b 6 = toBCD h.day ∧ cell b 7 = toBCD h.month ∧
    cell b 14 = toBCD ((h.year - 1980) % 100) ∧ ∀ i, 8 ≤ i → i < 32 → i ≠ 14 → cell b i = 0x00#8

/-- The word `0x2000 | (a << 8) | d` of `WR a, d` (42_port_interface.md R122). -/
def wrWord (a : BitVec 5) (d : Byte) : Word := 0x2000#16 ||| (a.setWidth 16 <<< 8) ||| d.setWidth 16

/-- The word `a << 8` of `RD a` (42_port_interface.md R120). -/
def rdWord (a : BitVec 5) : Word := a.setWidth 16 <<< 8

/-- The seconds carry of the next TICK (43_tick_engine.md R152). -/
def carriesSeconds (b : Bank) : Bool := decide (60 ≤ fromBCD (incBCD (cell b 2) 1))

/-- The minutes carry (R153). -/
def carriesMinutes (b : Bank) : Bool := carriesSeconds b && decide (60 ≤ fromBCD (incBCD (cell b 3) 1))

/-- The hours carry (R154). -/
def carriesHours (b : Bank) : Bool := carriesMinutes b && decide (24 ≤ fromBCD (incBCD (cell b 4) 1))

/-- The day-of-week wrap (R155). -/
def wrapsWeek (b : Bank) : Bool := carriesHours b && decide (8 ≤ fromBCD (incBCD (cell b 5) 1))

/-- The month end (R157), with month and year as they stand before the TICK. -/
def endsMonth (b : Bank) : Bool :=
  carriesHours b &&
    decide (dim Config.hardware (fromBCD (cell b 7)) (fromBCD (cell b 14) + 1980) < fromBCD (incBCD (cell b 6) 1))

/-- The year end (R158). -/
def endsYear (b : Bank) : Bool := endsMonth b && decide (12 < fromBCD (incBCD (cell b 7) 1))

/-- The five fields of the alarm compare (44_alarm_matcher.md R190): live cell and alarm cell. -/
def alarmPairs : List (Nat × Nat) := [(2, 10), (3, 11), (4, 12), (6, 14), (7, 15)]

/-- `match()` as R190, R191 and R194 say it: raw equality, or both top bits of the alarm byte set. -/
def AlarmMatches (b : Bank) : Prop :=
  ∀ p ∈ alarmPairs, cell b p.2 = cell b p.1 ∨ cell b p.2 &&& 0xC0#8 = 0xC0#8

/-- The bits of the pending set of a TICK from bank `b` that ends over bank `b'`, numbered as 60_exceptions.md R242. -/
def PendingBit (b b' : Bank) (n : Nat) : Prop :=
  match n with
  | 0 => AlarmMatches b'
  | 1 => False
  | 2 => (cell b 17).getLsbD 2 = true
  | 3 => carriesSeconds b = true ∧ (cell b 17).getLsbD 3 = true
  | 4 => carriesMinutes b = true ∧ (cell b 17).getLsbD 4 = true
  | 5 => carriesHours b = true ∧ (cell b 17).getLsbD 5 = true
  | 6 => wrapsWeek b = true ∧ (cell b 17).getLsbD 6 = true
  | 7 => endsMonth b = true ∧ (cell b 17).getLsbD 7 = true
  | _ => False

/-- Seconds since midnight. -/
def secondOfDay (b : Bank) : Nat := 3600 * fromBCD (cell b 4) + 60 * fromBCD (cell b 3) + fromBCD (cell b 2)

/-- Days of a common year before the month. -/
def daysBeforeMonth : Nat → Nat
  | 1 => 0
  | 2 => 31
  | 3 => 59
  | 4 => 90
  | 5 => 120
  | 6 => 151
  | 7 => 181
  | 8 => 212
  | 9 => 243
  | 10 => 273
  | 11 => 304
  | 12 => 334
  | _ => 0

/-- Days since 1 January 1980 of a day of the register's hundred years 1980-2079, in which a year is a leap year exactly when
4 divides it (00_scope.md R7). -/
def dayNumber (b : Bank) : Nat :=
  let y := fromBCD (cell b 14)
  let m := fromBCD (cell b 7)
  365 * y + (y + 3) / 4 + daysBeforeMonth m + (if y % 4 = 0 ∧ 2 < m then 1 else 0) + (fromBCD (cell b 6) - 1)

/-- The days of 1980-2079. -/
def daysOfCentury : Nat := 36525

/-- The next `n` operations of the stream are TICKs. -/
def NextAreTicks (n : Nat) (s : State) : Prop :=
  n ≤ s.input.length ∧ ∀ t ∈ s.input.take n, decode t.word = .tick

/-- The five rows of WR.STORE with the cell and the byte they name (30_encoding.md R79). -/
def storeTarget : Instr → Option (Nat × Byte)
  | .wrStoreClock a d => some (a.toNat, d)
  | .wrStoreIctrl d => some (17, d)
  | .wrStoreStatus d => some (20, d)
  | .wrStoreStby a d => some (22 + a.toNat, d)
  | .wrStoreTest a d => some (24 + a.toNat, d)
  | _ => none

/-- The nibble-carry circuit of 41_bcd_codec.md R104, on the two digits. -/
def nibbleCarry (b : Byte) : Byte :=
  let u := units b + 1
  let t := if u = 10 then tens b + 1 else tens b
  let u := if u = 10 then 0 else u
  let t := if t = 10 then 0 else t
  BitVec.ofNat 8 (16 * t + u)

/-- An operation of this word has no effect the CORE could show (it is refused), or ends in a next state: what the two
outcomes have in common for two starts that the CORE cannot tell apart. -/
def SameOutcome (s₁ s₂ : State) (r₁ r₂ : Result) : Prop :=
  match r₁, r₂ with
  | .next t₁, .next t₂ =>
      t₁.bank = t₂.bank ∧ t₁.life = t₂.life ∧
        (∃ new, t₁.answers = new ++ s₁.answers ∧ t₂.answers = new ++ s₂.answers) ∧
        ∃ k, t₁.irqEvents = s₁.irqEvents + k ∧ t₂.irqEvents = s₂.irqEvents + k
  | .refused q₁, .refused q₂ => q₁ = q₂
  | _, _ => False

/-- A WF bank whose alarm month, status and control are 0, as RESET leaves them. -/
def Quiet (s : State) : Prop :=
  bankWellFormed Config.hardware s.bank = true ∧ cell s.bank 15 = 0x00#8 ∧ cell s.bank 16 = 0x00#8 ∧ cell s.bank 17 = 0x00#8

/-- The plain stores that can end that: to a clock cell, to the alarm month, to `ICTRL`. -/
def endsQuiet (i : Instr) : Prop :=
  setsClockCell i = true ∨ ∃ n d, storeTarget i = some (n, d) ∧ (n = 15 ∨ n = 17)

end Sys2Proof.Claims

open Sys2Proof Sys2Proof.Machine Sys2Proof.Claims

/-! ## Encoding and the step -/

/-- The decode vectors of 95_test_vectors.md 2.1. -/
def Obligations.DecodesTheSpecsVectors : Prop :=
  decode 0x0000#16 = .rd 0#5 ∧ decode 0x1000#16 = .rd 16#5 ∧ decode 0x1F55#16 = .rd 31#5 ∧
  decode 0x2012#16 = .wrStoreClock 0#4 0x12#8 ∧ decode 0x2F12#16 = .wrStoreClock 15#4 0x12#8 ∧
  decode 0x30FF#16 = .wrIstat ∧ decode 0x3104#16 = .wrStoreIctrl 0x04#8 ∧ decode 0x32CD#16 = .wrRstcnt ∧
  decode 0x3300#16 = .wrRstram ∧ decode 0x3477#16 = .wrStoreStatus 0x77#8 ∧ decode 0x3500#16 = .wrGo ∧
  decode 0x3601#16 = .wrStoreStby 0#1 0x01#8 ∧ decode 0x3702#16 = .wrStoreStby 1#1 0x02#8 ∧
  decode 0x3F00#16 = .wrStoreTest 7#3 0x00#8 ∧ decode 0x4000#16 = .tick ∧ decode 0x5FFF#16 = .tick ∧
  decode 0x6000#16 = .reset ∧ decode 0x7ABC#16 = .reset ∧ decode 0x8000#16 = .close ∧ decode 0x9F00#16 = .close ∧
  decode 0xA000#16 = .reserved5 ∧ decode 0xBFFF#16 = .reserved5 ∧ decode 0xC000#16 = .reserved67 ∧
  decode 0xE123#16 = .reserved67 ∧ decode 0xFFFF#16 = .reserved67

/-- 30_encoding.md R71, R74: decoding the canonical word of any row, with every operand at every value, gives it back. -/
def Obligations.EncodedOperationDecodesBack : Prop := ∀ i : Instr, decode (encode i) = i

/-- The decode table of 30_encoding.md R79, row by row: a word decodes to a row exactly when it matches it. One instruction has
one constructor, so the rows are disjoint and cover all words. With the arithmetic of R79 for RD and WR words. -/
def Obligations.WordsDecodeByTheTable : Prop :=
  (∀ w : Word,
    (w &&& 0xE000#16 = 0x0000#16 ↔ ∃ a, decode w = .rd a) ∧
    (w &&& 0xF000#16 = 0x2000#16 ↔ ∃ a d, decode w = .wrStoreClock a d) ∧
    (w &&& 0xFF00#16 = 0x3000#16 ↔ decode w = .wrIstat) ∧
    (w &&& 0xFF00#16 = 0x3100#16 ↔ ∃ d, decode w = .wrStoreIctrl d) ∧
    (w &&& 0xFF00#16 = 0x3200#16 ↔ decode w = .wrRstcnt) ∧
    (w &&& 0xFF00#16 = 0x3300#16 ↔ decode w = .wrRstram) ∧
    (w &&& 0xFF00#16 = 0x3400#16 ↔ ∃ d, decode w = .wrStoreStatus d) ∧
    (w &&& 0xFF00#16 = 0x3500#16 ↔ decode w = .wrGo) ∧
    (w &&& 0xFE00#16 = 0x3600#16 ↔ ∃ a d, decode w = .wrStoreStby a d) ∧
    (w &&& 0xF800#16 = 0x3800#16 ↔ ∃ a d, decode w = .wrStoreTest a d) ∧
    (w &&& 0xE000#16 = 0x4000#16 ↔ decode w = .tick) ∧
    (w &&& 0xE000#16 = 0x6000#16 ↔ decode w = .reset) ∧
    (w &&& 0xE000#16 = 0x8000#16 ↔ decode w = .close) ∧
    (w &&& 0xE000#16 = 0xA000#16 ↔ decode w = .reserved5) ∧
    (w &&& 0xC000#16 = 0xC000#16 ↔ decode w = .reserved67)) ∧
  (∀ a : BitVec 5, decode (rdWord a) = .rd a) ∧
  (∀ (a : BitVec 5) (d : Byte) (i : Nat) (v : Byte), storeTarget (decode (wrWord a d)) = some (i, v) → i = a.toNat ∧ v = d)

/-- 30_encoding.md R75: the ignored fields change nothing, and the canonical spelling has them zero. -/
def Obligations.IgnoredFieldsChangeNothing : Prop :=
  (∀ (a : BitVec 5) (d : Byte), decode (mkWord 0b000#3 a d) = .rd a) ∧
  (∀ (a : BitVec 5) (d : Byte), decode (mkWord 0b010#3 a d) = .tick) ∧
  (∀ (a : BitVec 5) (d : Byte), decode (mkWord 0b011#3 a d) = .reset) ∧
  (∀ (a : BitVec 5) (d : Byte), decode (mkWord 0b100#3 a d) = .close) ∧
  (∀ a : BitVec 5, encode (.rd a) = mkWord 0b000#3 a 0x00#8) ∧
  encode .tick = mkWord 0b010#3 0#5 0x00#8 ∧ encode .reset = mkWord 0b011#3 0#5 0x00#8 ∧
  encode .close = mkWord 0b100#3 0#5 0x00#8

/-- With an operation pending, a step is that operation's `exec`, on the state with the transaction taken off the stream and its
host-time sample at the host-time input. That operations come one at a time and each completes before the next is the spec's
(30_encoding.md R70, 20_memory.md R59). The list that holds them, oldest first, is the model's choice (log entry 2); that each
carries its own sample, put at the host-time input by its step, the model deduces (log entry 4) from the notation of R78 and from
R210 of 45_host_sync_lifecycle.md. -/
def Obligations.StepRunsTheNextTransaction : Prop :=
  ∀ (s : State) (t : Transaction) (rest : List Transaction), s.input = t :: rest →
    step s = exec (decode t.word) { s with input := rest, hostTime := t.host }

/-- The model's own choice (log entry 3): with no operation pending a step changes nothing. -/
def Obligations.NothingPendingNothingHappens : Prop :=
  ∀ s : State, s.input = [] → step s = .next s

/-- 30_encoding.md R76: a word with `OP` 101, 110 or 111 (0xA000-0xFFFF) is refused, whatever the state. -/
def Obligations.ReservedWordsAreRefused : Prop :=
  (∀ s : State, exec .reserved5 s = .refused .reservedOp ∧ exec .reserved67 s = .refused .reservedOp) ∧
  ∀ (s : State) (t : Transaction) (rest : List Transaction), s.input = t :: rest → 0xA000 ≤ t.word.toNat →
    step s = .refused .reservedOp

/-! ## Register bank: RD and WR -/

/-- 42_port_interface.md R120, R121: RD answers the stored byte and changes nothing else. -/
def Obligations.ReadAnswersTheStoredByte : Prop :=
  ∀ (s : State) (a : BitVec 5), s.life = .running →
    exec (.rd a) s = .next { s with answers := cell s.bank a.toNat :: s.answers }

/-- 20_memory.md R57: two RDs of one index with no operation between them answer the same byte, at the words' level. -/
def Obligations.ReadTwiceAnswersTheSame : Prop :=
  ∀ (s : State) (a : BitVec 5) (h₁ h₂ : HostTime) (rest : List Transaction), s.life = .running →
    s.input = ⟨rdWord a, h₁⟩ :: ⟨rdWord a, h₂⟩ :: rest →
    ∃ (t : State) (v : Byte), Sys2Proof.core.run 2 s = .next t ∧ t.bank = s.bank ∧ t.life = s.life ∧
      t.irqEvents = s.irqEvents ∧ t.answers = v :: v :: s.answers

/-- 42_port_interface.md R123 (section 2): each of the five WR.STORE rows stores its byte verbatim in its cell, and changes nothing
else. -/
def Obligations.PlainStoreStoresVerbatim : Prop :=
  ∀ (s : State) (i : Instr) (n : Nat) (d : Byte), s.life = .running → storeTarget i = some (n, d) →
    ∃ t, exec i s = .next t ∧ cell t.bank n = d ∧ CellsKeptExcept [n] s.bank t.bank ∧ OnlyBankChanged s t

/-- `WR a, d` as a word dispatches by its index (42_port_interface.md R122): 16 clears the status (R125), 18 zeroes the sub-second
cells (R127), 19 clears and Loads (R128), 21 Loads (R130), every other index stores the byte (R123); outside RUNNING it is refused.
That 18 and 21 do not store the byte is the spec's decision D20 (log entry 18). -/
def Obligations.WriteDispatchesByIndex : Prop :=
  (∀ (s : State) (a : BitVec 5) (d : Byte), s.life ≠ .running → ∃ q, exec (decode (wrWord a d)) s = .refused q) ∧
  ∀ (s : State) (a : BitVec 5) (d : Byte), s.life = .running →
    ∃ t, exec (decode (wrWord a d)) s = .next t ∧ OnlyBankChanged s t ∧
      (a.toNat = 16 → cell t.bank 16 = 0x00#8 ∧ CellsKeptExcept [16] s.bank t.bank) ∧
      (a.toNat = 18 → cell t.bank 0 = 0x00#8 ∧ cell t.bank 1 = 0x00#8 ∧ CellsKeptExcept [0, 1] s.bank t.bank) ∧
      (a.toNat = 19 → ResetTable s.hostTime t.bank) ∧
      (a.toNat = 21 → t.bank = load Config.hardware s.hostTime s.bank) ∧
      (a.toNat ∉ [16, 18, 19, 21] → cell t.bank a.toNat = d ∧ CellsKeptExcept [a.toNat] s.bank t.bank)

/-- 42_port_interface.md R125: a WR to index 16 makes all eight status bits 0, touches no other cell (`ICTRL` among them) and puts
nothing out. -/
def Obligations.StatusWriteClearsStatus : Prop :=
  (∀ d : Byte, decode (wrWord 16#5 d) = .wrIstat) ∧
  ∀ s : State, s.life = .running →
    ∃ t, exec .wrIstat s = .next t ∧ cell t.bank 16 = 0x00#8 ∧ CellsKeptExcept [16] s.bank t.bank ∧ OnlyBankChanged s t

/-- 42_port_interface.md R126: the status port reads back 0 right after a write of any value to it. -/
def Obligations.StatusReadsBackZero : Prop :=
  ∀ (s : State) (d : Byte) (h₁ h₂ : HostTime) (rest : List Transaction), s.life = .running →
    s.input = ⟨wrWord 16#5 d, h₁⟩ :: ⟨rdWord 16#5, h₂⟩ :: rest →
    ∃ t : State, Sys2Proof.core.run 2 s = .next t ∧ t.answers = 0x00#8 :: s.answers

/-- 42_port_interface.md R127: a WR to index 18 zeroes cells 0 and 1 and has no effect on any other register. -/
def Obligations.ResetCountersZeroesSubSeconds : Prop :=
  (∀ d : Byte, decode (wrWord 18#5 d) = .wrRstcnt) ∧
  ∀ s : State, s.life = .running →
    ∃ t, exec .wrRstcnt s = .next t ∧ cell t.bank 0 = 0x00#8 ∧ cell t.bank 1 = 0x00#8 ∧
      CellsKeptExcept [0, 1] s.bank t.bank ∧ OnlyBankChanged s t

/-- 42_port_interface.md R128, R129: a WR to index 19 zeroes the whole bank and Loads: the bank of the reset table for the same
sample, `ISTAT`, `ICTRL` and the alarm cells zero; the result equals the state after RESET with that sample. -/
def Obligations.RamResetEqualsReset : Prop :=
  (∀ d : Byte, decode (wrWord 19#5 d) = .wrRstram) ∧
  ∀ s : State, s.life = .running →
    ∃ t, exec .wrRstram s = .next t ∧ ResetTable s.hostTime t.bank ∧ OnlyBankChanged s t ∧ exec .reset s = .next t

/-- 42_port_interface.md R130: GO writes the time and date cells, the sub-second cells and the year from the host time, and leaves
every other cell (`ICTRL`, `ISTAT`, the alarm cells but 14, 16-31) and everything put out as it was. -/
def Obligations.GoLoadsTheTimeOnly : Prop :=
  (∀ d : Byte, decode (wrWord 21#5 d) = .wrGo) ∧
  ∀ s : State, s.life = .running →
    ∃ t, exec .wrGo s = .next t ∧
      cell t.bank 2 = toBCD s.hostTime.second ∧ cell t.bank 3 = toBCD s.hostTime.minute ∧
      cell t.bank 4 = toBCD s.hostTime.hour ∧ cell t.bank 5 = toBCD (s.hostTime.weekday + 1) ∧
      cell t.bank 6 = toBCD s.hostTime.day ∧ cell t.bank 7 = toBCD s.hostTime.month ∧
      cell t.bank 0 = 0x00#8 ∧ cell t.bank 1 = 0x00#8 ∧ cell t.bank 14 = toBCD (s.hostTime.year - 1980) ∧
      CellsKeptExcept [0, 1, 2, 3, 4, 5, 6, 7, 14] s.bank t.bank ∧ OnlyBankChanged s t

/-- 20_memory.md R58: doing a plain-store WR, WR 16 or WR 18 twice leaves the same state as once; so does WR 19 or WR 21 when the
host-time tuple is the same at both Loads. -/
def Obligations.WritesAreIdempotent : Prop :=
  ∀ (s t : State) (i : Instr),
    ((∃ p, storeTarget i = some p) ∨ i = .wrIstat ∨ i = .wrRstcnt ∨ i = .wrRstram ∨ i = .wrGo) →
    exec i s = .next t → exec i t = .next t

/-- 10_state.md R44: an index outside the bank reads the all-ones sentinel, and a write there changes nothing; a 5-bit index never
lies outside. -/
def Obligations.OutsideTheBankIsSentinel : Prop :=
  (∀ (b : Bank) (i : Nat) (v : Byte), 32 ≤ i → cell b i = 0xFF#8 ∧ store b i v = b) ∧
  ∀ (w : Word) (a : BitVec 5), decode w = .rd a → rdIndex a < 32

/-- 20_memory.md R52 and 00_scope.md R9, for every `IO_BASE`: port `IO_BASE + k` of the window is index `k`, read by the RD word and
written by the WR word of that index; a port outside the window is not routed. -/
def Obligations.PortsMapToIndices : Prop :=
  ∀ (c : Config) (v : Byte),
    (∀ k : BitVec 5, portIndex c (c.ioBase + k.toNat) = k ∧ memRead c (c.ioBase + k.toNat) = some (rdWord k) ∧
      memWrite c (c.ioBase + k.toNat) v = some (wrWord k v)) ∧
    ∀ port, (port < c.ioBase ∨ c.ioBase + 32 ≤ port) → memRead c port = none ∧ memWrite c port v = none

/-! ## Load, reset and teardown -/

/-- 45_host_sync_lifecycle.md R220 and 70_reset_and_hazards.md R270: RESET from UNINIT or RUNNING leaves the reset table for its
host-time sample, `life` = RUNNING, and emits nothing; from CLOSED it is refused. -/
def Obligations.ResetClearsAndLoads : Prop :=
  (∀ s : State, s.life ≠ .closed →
    ∃ t, exec .reset s = .next t ∧ t.life = .running ∧ ResetTable s.hostTime t.bank ∧
      t.input = s.input ∧ t.hostTime = s.hostTime ∧ t.answers = s.answers ∧ t.irqEvents = s.irqEvents) ∧
  ∀ s : State, s.life = .closed → exec .reset s = .refused .closed

/-- The model's reset state (its host-time sample is the model's choice, log entry 6) is what the spec's RESET operation leaves of
the state before the first operation, whatever the undefined bank of that state holds (R220, R227). -/
def Obligations.ResetStateIsWhatResetLeaves : Prop :=
  ∀ b : Bank, exec .reset (State.initial b) = .next State.reset

/-- 45_host_sync_lifecycle.md R211, 10_state.md R34: after a Load of a valid host-time tuple, by whichever of its three triggers, the
bank is WF. -/
def Obligations.LoadOfValidTupleIsWellFormed : Prop :=
  ∀ s : State, s.life = .running → HostTime.valid Config.hardware s.hostTime = true →
    ∀ i, i = .reset ∨ i = .wrRstram ∨ i = .wrGo →
      ∃ t, exec i s = .next t ∧ bankWellFormed Config.hardware t.bank = true

/-- 45_host_sync_lifecycle.md R224: CLOSE from UNINIT or RUNNING makes the CORE CLOSED and changes nothing else; from CLOSED it is
refused. -/
def Obligations.CloseEndsTheLife : Prop :=
  (∀ s : State, s.life ≠ .closed → exec .close s = .next { s with life := .closed }) ∧
  ∀ s : State, s.life = .closed → exec .close s = .refused .closed

/-- 45_host_sync_lifecycle.md R225: exactly which operations each lifecycle state admits. -/
def Obligations.LifecycleAdmission : Prop :=
  ∀ (i : Instr) (s : State), Instr.wellFormed i = true →
    ((∃ t, exec i s = .next t) ↔ s.life = .running ∨ (s.life = .uninit ∧ (i = .reset ∨ i = .close))) ∧
    ((∃ q, exec i s = .refused q) ↔ ¬(s.life = .running ∨ (s.life = .uninit ∧ (i = .reset ∨ i = .close))))

/-- 10_state.md R40: a step changes `life` only by RESET, to RUNNING, or by CLOSE, to CLOSED; and CLOSED is terminal: no operation
pending in it is ever run. -/
def Obligations.LifecycleTransitions : Prop :=
  ∀ s s' : State, step s = .next s' →
    (s'.life = s.life ∨
      ∃ t rest, s.input = t :: rest ∧ s.life ≠ .closed ∧
        ((decode t.word = .reset ∧ s'.life = .running) ∨ (decode t.word = .close ∧ s'.life = .closed))) ∧
    (s.life = .closed → s.input = [] ∧ s' = s)

/-- 45_host_sync_lifecycle.md R227: no operation can observe the bank of an UNINIT CORE: RESET leaves the same state whatever it
holds, and CLOSE ends the run. -/
def Obligations.UnconstructedBankIsUnobservable : Prop :=
  ∀ (i : Instr) (s : State) (b : Bank), s.life = .uninit →
    exec i { s with bank := b } = exec i s ∨
    (i = .close ∧ exec i s = .next { s with life := .closed } ∧
      exec i { s with bank := b } = .next { s with bank := b, life := .closed })

/-- 10_state.md R41, R43: between operations the CORE keeps nothing but the bank and `life`, and only RESET, WR 19 and WR 21 sample
the host time: two states that agree on those run any operation alike and put out the same. -/
def Obligations.CoreKeepsOnlyBankAndLife : Prop :=
  ∀ (i : Instr) (s₁ s₂ : State), s₁.bank = s₂.bank → s₁.life = s₂.life →
    ((i = .reset ∨ i = .wrRstram ∨ i = .wrGo) → s₁.hostTime = s₂.hostTime) →
    SameOutcome s₁ s₂ (exec i s₁) (exec i s₂)

/-! ## Tick engine -/

/-- 43_tick_engine.md R150 to R159, flat: what a TICK leaves in each time and date cell, from every bank (R175 among them). -/
def Obligations.TickAdvancesTheTimeCells : Prop :=
  ∀ s : State, s.life = .running →
    ∃ t, exec .tick s = .next t ∧
      cell t.bank 2 = (if carriesSeconds s.bank then 0x00#8 else incBCD (cell s.bank 2) 1) ∧
      cell t.bank 3 = (if carriesMinutes s.bank then 0x00#8
        else if carriesSeconds s.bank then incBCD (cell s.bank 3) 1 else cell s.bank 3) ∧
      cell t.bank 4 = (if carriesHours s.bank then 0x00#8
        else if carriesMinutes s.bank then incBCD (cell s.bank 4) 1 else cell s.bank 4) ∧
      cell t.bank 5 = (if wrapsWeek s.bank then 0x01#8
        else if carriesHours s.bank then incBCD (cell s.bank 5) 1 else cell s.bank 5) ∧
      cell t.bank 6 = (if endsMonth s.bank then 0x01#8
        else if carriesHours s.bank then incBCD (cell s.bank 6) 1 else cell s.bank 6) ∧
      cell t.bank 7 = (if endsYear s.bank then 0x01#8
        else if endsMonth s.bank then incBCD (cell s.bank 7) 1 else cell s.bank 7) ∧
      cell t.bank 14 = (if endsYear s.bank then incBCD (cell s.bank 14) 1 else cell s.bank 14)

/-- 43_tick_engine.md R160, R168 and 60_exceptions.md R241 to R243: a TICK ORs into `ISTAT` exactly the bits of its pending set:
COMPARE after the rollovers whatever `ICTRL` holds, every other condition that occurred only if its `ICTRL` bit is 1, TENTHS
never. (The bit numbers are the spec's default layout, log entry 13.) -/
def Obligations.TickRecordsItsConditions : Prop :=
  ∀ s : State, s.life = .running →
    ∃ t, exec .tick s = .next t ∧
      ∀ n, n < 8 → ((cell t.bank 16).getLsbD n = true ↔ (cell s.bank 16).getLsbD n = true ∨ PendingBit s.bank t.bank n)

/-- 60_exceptions.md R247, R249: one TICK emits exactly one event if its pending set is not empty and a line is configured, and no
event otherwise; it answers nothing. Said for this hardware's line, whatever it is, and for every line that is configured. -/
def Obligations.TickEmitsAtMostOneEvent : Prop :=
  ∀ s : State, s.life = .running →
    (∃ t, exec .tick s = .next t ∧
      ((∃ n, n < 8 ∧ PendingBit s.bank t.bank n) →
        t.irqEvents = match Config.hardwareIrqLine with
          | some _ => s.irqEvents + 1
          | none => s.irqEvents) ∧
      ((∀ n, n < 8 → ¬PendingBit s.bank t.bank n) → t.irqEvents = s.irqEvents)) ∧
    ∀ k : Nat,
      (∃ n, n < 8 ∧ PendingBit s.bank (tick { Config.hardware with irqLine := some k } s).bank n) →
        (tick { Config.hardware with irqLine := some k } s).irqEvents = s.irqEvents + 1

/-- 43_tick_engine.md R163, R164, R165: a TICK writes only cells 2-7, 14 and 16; the sub-second cells, the alarm cells, `ICTRL`, the
command cells and 20, 22-31 keep their values, and so does everything outside the bank but the count of events: a TICK answers nothing. -/
def Obligations.TickLeavesTheRest : Prop :=
  ∀ s : State, s.life = .running →
    ∃ t, exec .tick s = .next t ∧ CellsKeptExcept [2, 3, 4, 5, 6, 7, 14, 16] s.bank t.bank ∧
      t.life = s.life ∧ t.input = s.input ∧ t.hostTime = s.hostTime ∧ t.answers = s.answers

/-- 10_state.md R34, for every leap rule, interrupt layout, wildcard mask, gating, line and epoch: if the bank is WF before a TICK it
is WF after it. -/
def Obligations.TickKeepsTheBankWellFormed : Prop :=
  ∀ (c : Config) (s : State), c.yearIdx = some 14 → c.tickStep = 1 →
    bankWellFormed c s.bank = true → bankWellFormed c (tick c s).bank = true

/-- The Tick Engine is a calendar: from a WF bank one TICK adds one second to the time of day and, at midnight only, one day to the
date, counted over the hundred years 1980-2079 with their leap days, and one to the day of the week. (Month lengths and leap
years are the spec's general knowledge, R7, R170.) -/
def Obligations.TickIsOneSecondOfTheCalendar : Prop :=
  ∀ s : State, s.life = .running → bankWellFormed Config.hardware s.bank = true →
    ∃ t, exec .tick s = .next t ∧ bankWellFormed Config.hardware t.bank = true ∧
      secondOfDay t.bank = (secondOfDay s.bank + 1) % 86400 ∧
      dayNumber t.bank = (dayNumber s.bank + (secondOfDay s.bank + 1) / 86400) % daysOfCentury ∧
      fromBCD (cell t.bank 5) = (fromBCD (cell s.bank 5) - 1 + (secondOfDay s.bank + 1) / 86400) % 7 + 1

/-- The same for any number of TICKs in a row, as steps of the machine (R180, R181). -/
def Obligations.TicksCountSeconds : Prop :=
  ∀ (n : Nat) (s : State), s.life = .running → bankWellFormed Config.hardware s.bank = true → NextAreTicks n s →
    ∃ t : State, Sys2Proof.core.run n s = .next t ∧ t.life = .running ∧ t.input = s.input.drop n ∧
      bankWellFormed Config.hardware t.bank = true ∧
      secondOfDay t.bank = (secondOfDay s.bank + n) % 86400 ∧
      dayNumber t.bank = (dayNumber s.bank + (secondOfDay s.bank + n) / 86400) % daysOfCentury ∧
      fromBCD (cell t.bank 5) = (fromBCD (cell s.bank 5) - 1 + (secondOfDay s.bank + n) / 86400) % 7 + 1

/-- 43_tick_engine.md R181: 60 TICKs return `SEC` to its start value; from `SEC` = `MIN` = 0, 3600 TICKs return both to 0 and advance
`HR` by one (from 0x23 to 0x00); from 00:00:00, 86400 TICKs return the time to 00:00:00 and advance the date by one day. -/
def Obligations.FieldCycles : Prop :=
  ∀ s : State, s.life = .running → bankWellFormed Config.hardware s.bank = true →
    (NextAreTicks 60 s → ∃ t : State, Sys2Proof.core.run 60 s = .next t ∧ cell t.bank 2 = cell s.bank 2) ∧
    (NextAreTicks 3600 s → cell s.bank 2 = 0x00#8 → cell s.bank 3 = 0x00#8 →
      ∃ t : State, Sys2Proof.core.run 3600 s = .next t ∧ cell t.bank 2 = 0x00#8 ∧ cell t.bank 3 = 0x00#8 ∧
        cell t.bank 4 = (if cell s.bank 4 = 0x23#8 then 0x00#8 else incBCD (cell s.bank 4) 1)) ∧
    (NextAreTicks 86400 s → cell s.bank 2 = 0x00#8 → cell s.bank 3 = 0x00#8 → cell s.bank 4 = 0x00#8 →
      ∃ t : State, Sys2Proof.core.run 86400 s = .next t ∧ cell t.bank 2 = 0x00#8 ∧ cell t.bank 3 = 0x00#8 ∧ cell t.bank 4 = 0x00#8 ∧
        dayNumber t.bank = (dayNumber s.bank + 1) % daysOfCentury)

/-- 43_tick_engine.md R172 and C7, for every leap rule `p`: the second after 23:59:59 on 28 February is 29 February when `p` calls
the year a leap year, and 1 March otherwise. -/
def Obligations.FebruaryFollowsTheLeapRule : Prop :=
  ∀ (p : Nat → Bool) (s : State),
    cell s.bank 2 = 0x59#8 → cell s.bank 3 = 0x59#8 → cell s.bank 4 = 0x23#8 → cell s.bank 6 = 0x28#8 → cell s.bank 7 = 0x02#8 →
    (p (fromBCD (cell s.bank 14) + 1980) = true →
      cell (tick { Config.hardware with isLeap := p } s).bank 6 = 0x29#8 ∧
      cell (tick { Config.hardware with isLeap := p } s).bank 7 = 0x02#8) ∧
    (p (fromBCD (cell s.bank 14) + 1980) = false →
      cell (tick { Config.hardware with isLeap := p } s).bank 6 = 0x01#8 ∧
      cell (tick { Config.hardware with isLeap := p } s).bank 7 = 0x03#8)

/-- 43_tick_engine.md R170: days in month, for every leap rule. -/
def Obligations.DaysInMonthTable : Prop :=
  ∀ (c : Config) (m y : Nat),
    (m ∈ [1, 3, 5, 7, 8, 10, 12] → dim c m y = 31) ∧ (m ∈ [4, 6, 9, 11] → dim c m y = 30) ∧
    (m = 2 → dim c m y = if c.isLeap y then 29 else 28) ∧ (m = 0 ∨ 13 ≤ m → dim c m y = 31)

/-- 00_scope.md R7: in 1980-2079 the Gregorian rule equals "divisible by 4". -/
def Obligations.GregorianIsDivFourInRange : Prop :=
  ∀ y : Nat, 1980 ≤ y → y ≤ 2079 → LeapRule.gregorian y = decide (y % 4 = 0)

/-- 44_alarm_matcher.md R199: a plain store of a wildcard to the year slot takes effect at once: the day field of the compare matches
every day, `cal_year()` is `fromBCD(w) + 1980`, the year is no valid BCD, and the next year-end increment gives a valid BCD year,
which is no wildcard. -/
def Obligations.WildcardInTheYearSlot : Prop :=
  ∀ (s : State) (w : Byte), s.life = .running → wild Config.hardware w = true →
    ∃ t, exec (.wrStoreClock 14#4 w) s = .next t ∧ fieldMatch Config.hardware t.bank 6 14 = true ∧
      calYear Config.hardware t.bank = fromBCD w + 1980 ∧ isBCD (cell t.bank 14) = false ∧
      isBCD (incBCD (cell t.bank 14) 1) = true ∧ wild Config.hardware (incBCD (cell t.bank 14) 1) = false

/-- 43_tick_engine.md R175: the examples of a TICK over out-of-range cells, whatever else the bank holds: SEC 0x75 and SEC 0x5F go to
0 with a minute carry, and at 59 minutes 59 seconds HR 0x30 goes to 0 with a day carry. -/
def Obligations.OutOfRangeCellsStillCarry : Prop :=
  ∀ s : State, s.life = .running →
    (cell s.bank 2 = 0x75#8 ∨ cell s.bank 2 = 0x5F#8 →
      ∃ t, exec .tick s = .next t ∧ cell t.bank 2 = 0x00#8 ∧ carriesSeconds s.bank = true ∧ cell t.bank 3 ≠ cell s.bank 3) ∧
    (cell s.bank 2 = 0x59#8 → cell s.bank 3 = 0x59#8 → cell s.bank 4 = 0x30#8 → cell s.bank 6 = 0x14#8 → cell s.bank 7 = 0x05#8 →
      ∃ t, exec .tick s = .next t ∧ cell t.bank 4 = 0x00#8 ∧ cell t.bank 6 = 0x15#8)

/-- 43_tick_engine.md R173: without a year register no TICK writes a year, and days in month use `EPOCH_BASE`. -/
def Obligations.NoYearRegisterNoYear : Prop :=
  ∀ (c : Config) (s : State), c.yearIdx = none →
    cell (tick c s).bank 14 = cell s.bank 14 ∧ calYear c s.bank = c.epochBase

/-- 60_exceptions.md R247: with `IRQ_LINE` = none no event is emitted, and the bank, `ISTAT` included, is updated as with any line. -/
def Obligations.NoLineNoEvent : Prop :=
  ∀ (c : Config) (s : State) (line : Option Nat),
    (tick { c with irqLine := none } s).irqEvents = s.irqEvents ∧
    (tick { c with irqLine := line } s).bank = (tick c s).bank

/-- 43_tick_engine.md R160, 60_exceptions.md R244, for both values of `COMPARE_GATED`: COMPARE is recorded when the alarm matches over
the cells as the TICK leaves them, and, when gated, only if bit 0 of `ICTRL` is 1. -/
def Obligations.CompareGateDecidesCompare : Prop :=
  ∀ (g : Bool) (s : State), (cell s.bank 16).getLsbD 0 = false →
    ((cell (tick { Config.hardware with compareGated := g } s).bank 16).getLsbD 0 = true ↔
      AlarmMatches (tick { Config.hardware with compareGated := g } s).bank ∧
        (g = true → (cell s.bank 17).getLsbD 0 = true))

/-! ## Alarm matcher -/

/-- 44_alarm_matcher.md R190, R191, R194: the matcher is true exactly when all five fields match: raw bytes equal, or both top bits of
the alarm byte set. -/
def Obligations.AlarmComparesFiveFields : Prop :=
  ∀ b : Bank, alarmMatch Config.hardware b = true ↔ AlarmMatches b

/-- 44_alarm_matcher.md R193, for every configuration: no cell but the ten of the five pairs enters the compare. -/
def Obligations.AlarmIgnoresOtherCells : Prop :=
  ∀ (c : Config) (b b' : Bank), (∀ p ∈ alarmPairs, cell b p.1 = cell b' p.1 ∧ cell b p.2 = cell b' p.2) →
    alarmMatch c b = alarmMatch c b'

/-- 44_alarm_matcher.md R191 (with the spec's `WILDCARD_MASK`, log entry 14): the wildcards are 0xC0-0xFF, and no wildcard is valid
BCD. -/
def Obligations.WildcardsAreNeverBCD : Prop :=
  ∀ a : Byte, (wild Config.hardware a = true ↔ 0xC0 ≤ a.toNat) ∧ (wild Config.hardware a = true → isBCD a = false)

/-- 44_alarm_matcher.md R197: with the other four alarm fields wildcards (and the wildcard in the year slot not lost by this TICK's
year end, R199), a TICK records COMPARE exactly when it leaves the seconds equal to the alarm seconds. -/
def Obligations.SecondsAlarmMatchesOnItsSecond : Prop :=
  ∀ s : State, s.life = .running → (cell s.bank 16).getLsbD 0 = false →
    wild Config.hardware (cell s.bank 10) = false → wild Config.hardware (cell s.bank 11) = true →
    wild Config.hardware (cell s.bank 12) = true → wild Config.hardware (cell s.bank 14) = true →
    wild Config.hardware (cell s.bank 15) = true → endsYear s.bank = false →
    ∃ t, exec .tick s = .next t ∧ ((cell t.bank 16).getLsbD 0 = true ↔ cell t.bank 2 = cell s.bank 10)

/-! ## Codec -/

/-- 41_bcd_codec.md R105: the round trip both ways. -/
def Obligations.CodecRoundTrip : Prop :=
  (∀ n : Nat, n ≤ 99 → fromBCD (toBCD n) = n) ∧ ∀ b : Byte, isBCD b = true → toBCD (fromBCD b) = b

/-- 41_bcd_codec.md R104: on valid BCD the increment by one is the nibble-carry circuit, and the result is always valid BCD. -/
def Obligations.IncrementIsNibbleCarry : Prop :=
  (∀ b : Byte, isBCD b = true → incBCD b 1 = nibbleCarry b) ∧ ∀ (b : Byte) (k : Nat), isBCD (incBCD b k) = true

/-- 41_bcd_codec.md R100, R102, R103: the tens digit is bits [7:4], the units digit bits [3:0]; every byte decodes to
`10 × tens + units`, and a byte is valid BCD exactly when both digits are at most 9. -/
def Obligations.DigitsAreTheNibbles : Prop :=
  ∀ b : Byte, fromBCD b = 10 * (b.toNat / 16) + b.toNat % 16 ∧
    (isBCD b = true ↔ b.toNat / 16 ≤ 9 ∧ b.toNat % 16 ≤ 9)

/-- 41_bcd_codec.md R101, for every integer: `toBCD` reduces mod 100 (Euclidean) and encodes the two digits of what is left. -/
def Obligations.EncodingReducesModHundred : Prop :=
  ∀ n : Int, isBCD (toBCD n) = true ∧ ((toBCD n).toNat : Int) = 16 * (n % 100 / 10) + n % 10

/-- 41_bcd_codec.md R106: valid BCD bytes compare as their decoded numbers do. -/
def Obligations.ByteOrderIsNumberOrder : Prop :=
  ∀ a b : Byte, isBCD a = true → isBCD b = true → (a.toNat < b.toNat ↔ fromBCD a < fromBCD b)

/-- 41_bcd_codec.md R107: `k` increments of 0x00 give `toBCD(k mod 100)`, and 100 increments of a valid byte give it back. -/
def Obligations.IncrementCyclesAtHundred : Prop :=
  (∀ k : Nat, (fun b => incBCD b 1)^[k] 0x00#8 = toBCD ((k % 100 : Nat) : Int)) ∧
  ∀ b : Byte, isBCD b = true → (fun b => incBCD b 1)^[100] b = b

/-! ## Invariants of every step and rules about the whole machine -/

/-- 10_state.md R35: while RUNNING the command cells hold 0: every step from every state keeps it, and an RD of each of them then
answers 0x00. -/
def Obligations.CommandCellsStayZero : Prop :=
  (∀ s s' : State, commandInvariant s → step s = .next s' → commandInvariant s') ∧
  ∀ (s : State) (a : BitVec 5), commandInvariant s → s.life = .running → a.toNat ∈ [18, 19, 21] →
    exec (.rd a) s = .next { s with answers := 0x00#8 :: s.answers }

/-- The reset state meets the two invariants (its time cells rest on the model's sample, log entry 6; R34, R35, R270). -/
def Obligations.ResetStateMeetsTheInvariants : Prop :=
  commandInvariant State.reset ∧ runningWellFormed State.reset

/-- 10_state.md R34, 70_reset_and_hazards.md R285: a WF bank stays WF through every step whose operation is not a plain store to a
time, date or year cell, provided its host-time sample is valid. -/
def Obligations.OnlyClockStoresBreakWellFormedness : Prop :=
  ∀ s s' : State, bankWellFormed Config.hardware s.bank = true →
    (∀ t rest, s.input = t :: rest → setsClockCell (decode t.word) = false ∧ HostTime.valid Config.hardware t.host = true) →
    step s = .next s' → bankWellFormed Config.hardware s'.bank = true

/-- 10_state.md R31: only a TICK sets status bits, by OR; only WR 16, WR 19 and RESET clear them; no other operation changes
`ISTAT`. -/
def Obligations.StatusChangesOnlyAsTheRuleSays : Prop :=
  ∀ s s' : State, step s = .next s' → cell s'.bank 16 ≠ cell s.bank 16 →
    ∃ t rest, s.input = t :: rest ∧
      ((decode t.word = .tick ∧ cell s'.bank 16 &&& cell s.bank 16 = cell s.bank 16) ∨
       ((decode t.word = .wrIstat ∨ decode t.word = .wrRstram ∨ decode t.word = .reset) ∧ cell s'.bank 16 = 0x00#8))

/-- 42_port_interface.md R132: only a TICK emits an interrupt event; a read answer comes from an RD alone, and nothing put out is ever
taken back. -/
def Obligations.OnlyTicksEmitEvents : Prop :=
  ∀ s s' : State, step s = .next s' →
    (s'.answers = s.answers ∧ s'.irqEvents = s.irqEvents) ∨
    ∃ t rest, s.input = t :: rest ∧
      ((decode t.word = .tick ∧ s'.answers = s.answers ∧ s'.irqEvents = s.irqEvents + 1) ∨
       ∃ a v, decode t.word = .rd a ∧ s'.answers = v :: s.answers ∧ s'.irqEvents = s.irqEvents)

/-- 60_exceptions.md R244: a freshly reset CORE (any valid sample) records no COMPARE, and no other condition, and emits no event,
however many TICKs pass before a program writes anything. -/
def Obligations.FreshCoreStaysSilent : Prop :=
  ∀ (n : Nat) (s s₁ : State), s.life ≠ .closed → HostTime.valid Config.hardware s.hostTime = true →
    exec .reset s = .next s₁ → NextAreTicks n s₁ →
    ∃ t : State, Sys2Proof.core.run n s₁ = .next t ∧ cell t.bank 16 = 0x00#8 ∧ t.irqEvents = s.irqEvents

/-- The same for every state, step by step (60_exceptions.md R243, R244, which the spec derives): a WF bank with alarm month, status
and control 0 stays so through every step whose operation is not a plain store to a clock cell, the alarm month or `ICTRL`, and
whose host-time sample is valid, and no such step emits an event; while RUNNING a TICK is such a step. -/
def Obligations.QuietCoreStaysQuiet : Prop :=
  (∀ s s' : State, Quiet s →
    (∀ t rest, s.input = t :: rest → ¬endsQuiet (decode t.word) ∧ HostTime.valid Config.hardware t.host = true) →
    step s = .next s' → Quiet s' ∧ s'.irqEvents = s.irqEvents) ∧
  ∀ s : State, s.life = .running → Quiet s → ∃ t, exec .tick s = .next t ∧ Quiet t ∧ t.irqEvents = s.irqEvents
end

