-- ==== Sys2Proof/Laws/Bank.lean ====
section
/-! SUPPORT. Read after write on the 32 cells, the sentinel outside them, and when two banks are equal. -/

namespace Sys2Proof.Machine

theorem cell_of_lt (b : Bank) {i : Nat} (h : i < 32) : cell b i = b[i] := by simp [cell, h]

/-- A write changes the cell it names, if that is a cell of the bank, and no other. -/
theorem cell_store (b : Bank) (i j : Nat) (v : Byte) :
    cell (store b i v) j = if i = j ∧ i < 32 then v else cell b j := by
  unfold cell store
  by_cases hi : i < 32
  · by_cases hj : j < 32
    · simp [hi, hj, Vector.getElem_set]
    · have hne : i ≠ j := by omega
      simp [hj, hne]
  · simp [hi]

@[simp] theorem cell_store_same (b : Bank) {i : Nat} (v : Byte) (h : i < 32) : cell (store b i v) i = v := by
  simp [cell_store, h]

@[simp] theorem cell_store_ne (b : Bank) {i j : Nat} (v : Byte) (h : i ≠ j) : cell (store b i v) j = cell b j := by
  simp [cell_store, h]

/-- R44, reads. -/
theorem cell_outside (b : Bank) {i : Nat} (h : 32 ≤ i) : cell b i = 0xFF#8 := by
  simp [cell, Nat.not_lt.mpr h]

/-- R44, writes. -/
theorem store_outside (b : Bank) {i : Nat} (v : Byte) (h : 32 ≤ i) : store b i v = b := by
  simp [store, Nat.not_lt.mpr h]

theorem cell_zeroBank {i : Nat} (h : i < 32) : cell zeroBank i = 0x00#8 := by
  simp [cell, zeroBank, h]

/-- Two banks are equal when their 32 cells are. -/
theorem bank_ext {b b' : Bank} (h : ∀ i, i < 32 → cell b i = cell b' i) : b = b' := by
  apply Vector.ext
  intro i hi
  simpa [cell_of_lt _ hi] using h i hi

/-- Writing a cell twice is writing it once, with the second value (R58: a plain store is idempotent). -/
theorem store_store (b : Bank) (i : Nat) (v w : Byte) : store (store b i v) i w = store b i w := by
  apply bank_ext
  intro j _
  simp only [cell_store]
  split <;> simp_all

end Sys2Proof.Machine
end

