-- ==== Sys2Proof/Laws/Alarm.lean ====
section
/-! SUPPORT. What the matcher's parts say, and that a write to a cell outside the compare does not reach it
(44_alarm_matcher.md R193). -/

namespace Sys2Proof.Machine

theorem wild_eq_true {c : Config} {a : Byte} : wild c a = true ↔ a &&& c.wildcardMask = c.wildcardMask := by
  simp [wild]

theorem fieldMatch_eq_true {c : Config} {b : Bank} {l a : Nat} :
    fieldMatch c b l a = true ↔ cell b a = cell b l ∨ cell b a &&& c.wildcardMask = c.wildcardMask := by
  simp [fieldMatch, wild]

/-- The status and control cells are not part of the compare. -/
theorem alarmMatch_store (c : Config) (b : Bank) {i : Nat} (v : Byte) (h : 16 ≤ i) :
    alarmMatch c (store b i v) = alarmMatch c b := by
  have hne : ∀ j, j < 16 → i ≠ j := by omega
  simp [alarmMatch, fieldMatch, cell_store_ne b v (hne _ _)]

end Sys2Proof.Machine
end

