-- ==== Sys2Proof/Laws/Codec.lean ====
section
/-! SUPPORT. The codec's lemmas over decoded numbers (41_bcd_codec.md). -/

namespace Sys2Proof.Machine

theorem tens_lt (b : Byte) : tens b < 16 := (b.extractLsb' 4 4).isLt
theorem units_lt (b : Byte) : units b < 16 := (b.extractLsb' 0 4).isLt

/-- The largest decoded number is 165 (R102). -/
theorem fromBCD_le (b : Byte) : fromBCD b ≤ 165 := by
  have := tens_lt b
  have := units_lt b
  unfold fromBCD
  omega

theorem tens_nibbles {t u : Nat} (h : t < 16) : tens (nibbles t u) = t := by
  have hx : (nibbles t u).extractLsb' 4 4 = BitVec.ofNat 4 t := by
    apply BitVec.eq_of_getLsbD_eq
    intro i hi
    rw [nibbles, BitVec.getLsbD_extractLsb', BitVec.getLsbD_append]
    simp [hi]
  simp [tens, hx, Nat.mod_eq_of_lt h]

theorem units_nibbles {t u : Nat} (h : u < 16) : units (nibbles t u) = u := by
  have hx : (nibbles t u).extractLsb' 0 4 = BitVec.ofNat 4 u := by
    apply BitVec.eq_of_getLsbD_eq
    intro i hi
    rw [nibbles, BitVec.getLsbD_extractLsb', BitVec.getLsbD_append]
    simp [hi]
  simp [units, hx, Nat.mod_eq_of_lt h]

/-- The decoded number determines the byte among valid BCD bytes. -/
theorem nibbles_tens_units (b : Byte) : nibbles (tens b) (units b) = b := by
  have key : ∀ b : Byte, nibbles (tens b) (units b) = b := by decide
  exact key b

/-- Encoding then decoding reduces mod 100. -/
theorem fromBCD_toBCD_int (n : Int) : (fromBCD (toBCD n) : Int) = n % 100 := by
  have h0 : 0 ≤ n % 100 := Int.emod_nonneg n (by decide)
  have h1 : n % 100 < 100 := Int.emod_lt_of_pos n (by decide)
  unfold fromBCD toBCD
  rw [tens_nibbles (by omega), units_nibbles (by omega)]
  omega

theorem isBCD_toBCD (n : Int) : isBCD (toBCD n) = true := by
  have h0 : 0 ≤ n % 100 := Int.emod_nonneg n (by decide)
  have h1 : n % 100 < 100 := Int.emod_lt_of_pos n (by decide)
  unfold isBCD toBCD
  rw [tens_nibbles (by omega), units_nibbles (by omega)]
  simp
  omega

/-- The increment on decoded numbers, for every byte (R104). -/
theorem fromBCD_incBCD (b : Byte) (k : Nat) : fromBCD (incBCD b k) = (fromBCD b + k) % 100 := by
  have h := fromBCD_toBCD_int (((fromBCD b + k) % 100 : Nat) : Int)
  unfold incBCD
  omega

/-- "The result is always valid BCD" (R104). -/
theorem isBCD_incBCD (b : Byte) (k : Nat) : isBCD (incBCD b k) = true := isBCD_toBCD _

theorem fromBCD_lt_of_isBCD {b : Byte} (h : isBCD b = true) : fromBCD b < 100 := by
  simp [isBCD] at h
  unfold fromBCD
  omega

/-- Decoding is injective on valid BCD bytes. -/
theorem eq_of_fromBCD_eq {a b : Byte} (ha : isBCD a = true) (hb : isBCD b = true) (h : fromBCD a = fromBCD b) : a = b := by
  simp [isBCD] at ha hb
  unfold fromBCD at h
  rw [← nibbles_tens_units a, ← nibbles_tens_units b]
  have h1 : tens a = tens b := by omega
  have h2 : units a = units b := by omega
  rw [h1, h2]

end Sys2Proof.Machine
end

