-- ==== Sys2Proof/Laws/Decode.lean ====
section
/-! SUPPORT. A word is its three fields (30_encoding.md R71). -/

namespace Sys2Proof

@[simp] theorem opField_mkWord (o : BitVec 3) (a : BitVec 5) (d : Byte) : opField (mkWord o a d) = o := by
  unfold opField mkWord
  apply BitVec.eq_of_getLsbD_eq
  intro i hi
  rw [BitVec.getLsbD_extractLsb', BitVec.getLsbD_append, BitVec.getLsbD_append]
  have h1 : ¬(13 + i < 8) := by omega
  have h2 : ¬(13 + i - 8 < 5) := by omega
  have h3 : 13 + i - 8 - 5 = i := by omega
  simp [hi, h1, h2, h3]

@[simp] theorem aField_mkWord (o : BitVec 3) (a : BitVec 5) (d : Byte) : aField (mkWord o a d) = a := by
  unfold aField mkWord
  apply BitVec.eq_of_getLsbD_eq
  intro i hi
  rw [BitVec.getLsbD_extractLsb', BitVec.getLsbD_append, BitVec.getLsbD_append]
  have h1 : ¬(8 + i < 8) := by omega
  have h2 : 8 + i - 8 < 5 := by omega
  have h3 : 8 + i - 8 = i := by omega
  simp [hi, h3]

@[simp] theorem dField_mkWord (o : BitVec 3) (a : BitVec 5) (d : Byte) : dField (mkWord o a d) = d := by
  unfold dField mkWord
  apply BitVec.eq_of_getLsbD_eq
  intro i hi
  rw [BitVec.getLsbD_extractLsb', BitVec.getLsbD_append]
  simp [hi]

/-- Every word is made of its fields, so a statement about all words is one about all fields. -/
theorem mkWord_fields (w : Word) : mkWord (opField w) (aField w) (dField w) = w := by
  unfold opField aField dField mkWord
  apply BitVec.eq_of_getLsbD_eq
  intro i hi
  rw [BitVec.getLsbD_append, BitVec.getLsbD_append]
  simp only [BitVec.getLsbD_extractLsb']
  by_cases h1 : i < 8
  · simp [h1]
  · by_cases h2 : i - 8 < 5
    · have h3 : 8 + (i - 8) = i := by omega
      simp [h1, h2, h3]
    · have h3 : i - 8 - 5 < 3 := by omega
      have h4 : 13 + (i - 8 - 5) = i := by omega
      simp [h1, h2, h3, h4]

/-- Decoding from the fields: `OP` chooses the operation, `A` under `OP` = 001, and nothing else (R72, R74, R75). -/
theorem decode_mkWord (o : BitVec 3) (a : BitVec 5) (d : Byte) :
    decode (mkWord o a d) =
      match o.toNat with
      | 0 => .rd a
      | 1 => decodeWr a d
      | 2 => .tick
      | 3 => .reset
      | 4 => .close
      | 5 => .reserved5
      | _ => .reserved67 := by
  unfold decode
  simp only [opField_mkWord, aField_mkWord, dField_mkWord] <;> rfl

/-- A row looks at no bit of `D`. -/
theorem mkWord_and_top (o : BitVec 3) (a : BitVec 5) (d : Byte) (m : BitVec 8) :
    mkWord o a d &&& (m ++ 0#8 : BitVec (8 + 8)) = mkWord o a 0#8 &&& (m ++ 0#8 : BitVec (8 + 8)) := by
  unfold mkWord
  apply BitVec.eq_of_getLsbD_eq
  intro i hi
  simp only [BitVec.getLsbD_and, BitVec.getLsbD_append]
  by_cases h : i < 8 <;> simp [h]

end Sys2Proof
end

