-- ==== Sys2Proof/Laws/State.lean ====
section
/-! SUPPORT. One lemma per field per update of the state, and what each shared operation can answer. -/

namespace Sys2Proof.Machine

@[simp] theorem withBank_bank (s : State) (b : Bank) : (s.withBank b).bank = b := rfl
@[simp] theorem withBank_life (s : State) (b : Bank) : (s.withBank b).life = s.life := rfl
@[simp] theorem withBank_input (s : State) (b : Bank) : (s.withBank b).input = s.input := rfl
@[simp] theorem withBank_hostTime (s : State) (b : Bank) : (s.withBank b).hostTime = s.hostTime := rfl
@[simp] theorem withBank_answers (s : State) (b : Bank) : (s.withBank b).answers = s.answers := rfl
@[simp] theorem withBank_irqEvents (s : State) (b : Bank) : (s.withBank b).irqEvents = s.irqEvents := rfl

@[simp] theorem withLife_bank (s : State) (l : Life) : (s.withLife l).bank = s.bank := rfl
@[simp] theorem withLife_life (s : State) (l : Life) : (s.withLife l).life = l := rfl
@[simp] theorem withLife_input (s : State) (l : Life) : (s.withLife l).input = s.input := rfl
@[simp] theorem withLife_hostTime (s : State) (l : Life) : (s.withLife l).hostTime = s.hostTime := rfl
@[simp] theorem withLife_answers (s : State) (l : Life) : (s.withLife l).answers = s.answers := rfl
@[simp] theorem withLife_irqEvents (s : State) (l : Life) : (s.withLife l).irqEvents = s.irqEvents := rfl

@[simp] theorem answer_bank (s : State) (v : Byte) : (s.answer v).bank = s.bank := rfl
@[simp] theorem answer_life (s : State) (v : Byte) : (s.answer v).life = s.life := rfl
@[simp] theorem answer_input (s : State) (v : Byte) : (s.answer v).input = s.input := rfl
@[simp] theorem answer_hostTime (s : State) (v : Byte) : (s.answer v).hostTime = s.hostTime := rfl
@[simp] theorem answer_answers (s : State) (v : Byte) : (s.answer v).answers = v :: s.answers := rfl
@[simp] theorem answer_irqEvents (s : State) (v : Byte) : (s.answer v).irqEvents = s.irqEvents := rfl

@[simp] theorem write_bank (s : State) (i : Nat) (v : Byte) : (s.write i v).bank = store s.bank i v := rfl
@[simp] theorem write_life (s : State) (i : Nat) (v : Byte) : (s.write i v).life = s.life := rfl
@[simp] theorem write_input (s : State) (i : Nat) (v : Byte) : (s.write i v).input = s.input := rfl
@[simp] theorem write_hostTime (s : State) (i : Nat) (v : Byte) : (s.write i v).hostTime = s.hostTime := rfl
@[simp] theorem write_answers (s : State) (i : Nat) (v : Byte) : (s.write i v).answers = s.answers := rfl
@[simp] theorem write_irqEvents (s : State) (i : Nat) (v : Byte) : (s.write i v).irqEvents = s.irqEvents := rfl

@[simp] theorem signalIrq_bank (c : Config) (s : State) : (signalIrq c s).bank = s.bank := rfl
@[simp] theorem signalIrq_life (c : Config) (s : State) : (signalIrq c s).life = s.life := rfl
@[simp] theorem signalIrq_input (c : Config) (s : State) : (signalIrq c s).input = s.input := rfl
@[simp] theorem signalIrq_hostTime (c : Config) (s : State) : (signalIrq c s).hostTime = s.hostTime := rfl
@[simp] theorem signalIrq_answers (c : Config) (s : State) : (signalIrq c s).answers = s.answers := rfl

/-- Exactly one event when a line is configured. -/
theorem signalIrq_irqEvents_some (c : Config) (s : State) {n : Nat} (h : c.irqLine = some n) :
    (signalIrq c s).irqEvents = s.irqEvents + 1 := by simp [signalIrq, h]

/-- No event when none is. -/
theorem signalIrq_irqEvents_none (c : Config) (s : State) (h : c.irqLine = none) :
    (signalIrq c s).irqEvents = s.irqEvents := by simp [signalIrq, h]

@[simp] theorem commitEvent_bank (c : Config) (t : Cascade) (s : State) : (commitEvent c t s).bank = s.bank := rfl
@[simp] theorem commitEvent_life (c : Config) (t : Cascade) (s : State) : (commitEvent c t s).life = s.life := rfl
@[simp] theorem commitEvent_input (c : Config) (t : Cascade) (s : State) : (commitEvent c t s).input = s.input := rfl
@[simp] theorem commitEvent_hostTime (c : Config) (t : Cascade) (s : State) :
    (commitEvent c t s).hostTime = s.hostTime := rfl
@[simp] theorem commitEvent_answers (c : Config) (t : Cascade) (s : State) : (commitEvent c t s).answers = s.answers := rfl
theorem commitEvent_irqEvents (c : Config) (t : Cascade) (s : State) :
    (commitEvent c t s).irqEvents = if t.pending = 0x00#8 then s.irqEvents else (signalIrq c s).irqEvents := rfl

@[simp] theorem tick_life (c : Config) (s : State) : (tick c s).life = s.life := by simp [tick]
@[simp] theorem tick_input (c : Config) (s : State) : (tick c s).input = s.input := by simp [tick]
@[simp] theorem tick_hostTime (c : Config) (s : State) : (tick c s).hostTime = s.hostTime := by simp [tick]
@[simp] theorem tick_answers (c : Config) (s : State) : (tick c s).answers = s.answers := by simp [tick]
theorem tick_bank (c : Config) (s : State) :
    (tick c s).bank = commitStatus (tickCompare c (tickRollover c s.bank)) := by simp [tick]
theorem tick_irqEvents (c : Config) (s : State) :
    (tick c s).irqEvents =
      if (tickCompare c (tickRollover c s.bank)).pending = 0x00#8 then s.irqEvents else (signalIrq c s).irqEvents := by
  simp [tick, commitEvent_irqEvents]

/-- Everything `whenRunning` can do. -/
theorem whenRunning_eq_next {s s' t : State} : whenRunning s s' = .next t ↔ s.life = .running ∧ s' = t := by
  unfold whenRunning
  cases s.life <;> simp

theorem whenRunning_running {s : State} (h : s.life = .running) (s' : State) : whenRunning s s' = .next s' := by
  simp [whenRunning, h]

/-- Everything `unlessClosed` can do. -/
theorem unlessClosed_eq_next {s s' t : State} : unlessClosed s s' = .next t ↔ s.life ≠ .closed ∧ s' = t := by
  unfold unlessClosed
  cases s.life <;> simp

theorem unlessClosed_open {s : State} (h : s.life ≠ .closed) (s' : State) : unlessClosed s s' = .next s' := by
  rw [unlessClosed_eq_next]
  exact ⟨h, rfl⟩

/-- No operation of the CORE faults: there is no fault (60_exceptions.md R240). -/
theorem no_fault (f : Fault) : False := nomatch f

theorem takeTransaction_cons {s : State} {t : Transaction} {rest : List Transaction} (h : s.input = t :: rest) :
    takeTransaction s = some (t.word, { s with input := rest, hostTime := t.host }) := by
  simp [takeTransaction, h]

theorem takeTransaction_nil {s : State} (h : s.input = []) : takeTransaction s = none := by
  simp [takeTransaction, h]

/-- Everything a step that answers a next state has done: nothing, with nothing pending, or the next operation. -/
theorem step_eq_next {s s' : State} (h : step s = .next s') :
    (s.input = [] ∧ s' = s) ∨
    ∃ t rest, s.input = t :: rest ∧ exec (decode t.word) { s with input := rest, hostTime := t.host } = .next s' := by
  cases hin : s.input with
  | nil => simp [step, takeTransaction, hin] at h; exact .inl ⟨rfl, h.symm⟩
  | cons t rest => simp [step, takeTransaction, hin] at h; exact .inr ⟨t, rest, rfl, h⟩

end Sys2Proof.Machine
end

