-- ==== Sys2Proof/Laws/Exec.lean ====
section
/-! SUPPORT. What each operation's `exec` is, and everything an `exec` that answers a next state has done. -/

namespace Sys2Proof.Machine

variable (s : State)

theorem exec_rd (a : BitVec 5) : exec (.rd a) s = whenRunning s (s.answer (s.read (rdIndex a))) := rfl
theorem exec_wrStoreClock (a : BitVec 4) (d : Byte) :
    exec (.wrStoreClock a d) s = whenRunning s (s.write (clockIndex a) d) := rfl
theorem exec_wrStoreIctrl (d : Byte) : exec (.wrStoreIctrl d) s = whenRunning s (s.write ICTRL d) := rfl
theorem exec_wrStoreStatus (d : Byte) : exec (.wrStoreStatus d) s = whenRunning s (s.write STATUS d) := rfl
theorem exec_wrStoreStby (a : BitVec 1) (d : Byte) :
    exec (.wrStoreStby a d) s = whenRunning s (s.write (stbyIndex a) d) := rfl
theorem exec_wrStoreTest (a : BitVec 3) (d : Byte) :
    exec (.wrStoreTest a d) s = whenRunning s (s.write (testIndex a) d) := rfl
theorem exec_wrIstat : exec .wrIstat s = whenRunning s (s.write ISTAT 0x00#8) := rfl
theorem exec_wrRstcnt : exec .wrRstcnt s = whenRunning s ((s.write MS 0x00#8).write HS 0x00#8) := rfl
theorem exec_wrRstram : exec .wrRstram s = whenRunning s (s.withBank (clearAndLoad Config.hardware s.hostTime)) := rfl
theorem exec_wrGo : exec .wrGo s = whenRunning s (s.withBank (load Config.hardware s.hostTime s.bank)) := rfl
theorem exec_tick : exec .tick s = whenRunning s (tick Config.hardware s) := rfl
theorem exec_reset :
    exec .reset s = unlessClosed s ((s.withBank (clearAndLoad Config.hardware s.hostTime)).withLife .running) := rfl
theorem exec_close : exec .close s = unlessClosed s (s.withLife .closed) := rfl
theorem exec_reserved5 : exec .reserved5 s = .refused .reservedOp := rfl
theorem exec_reserved67 : exec .reserved67 s = .refused .reservedOp := rfl

/-- The cell and the byte a plain store names. -/
def plainStoreOf : Instr → Option (Nat × Byte)
  | .wrStoreClock a d => some (clockIndex a, d)
  | .wrStoreIctrl d => some (ICTRL, d)
  | .wrStoreStatus d => some (STATUS, d)
  | .wrStoreStby a d => some (stbyIndex a, d)
  | .wrStoreTest a d => some (testIndex a, d)
  | _ => none

/-- No plain store names a cell with a write side effect (42_port_interface.md R123), nor one outside the bank. -/
theorem plainStoreOf_index {i : Instr} {n : Nat} {d : Byte} (h : plainStoreOf i = some (n, d)) :
    n < 32 ∧ n ≠ 16 ∧ n ≠ 18 ∧ n ≠ 19 ∧ n ≠ 21 := by
  cases i <;> simp [plainStoreOf, clockIndex, stbyIndex, testIndex] at h
  all_goals omega

variable {s}

theorem exec_plainStore {i : Instr} {n : Nat} {d : Byte} (h : plainStoreOf i = some (n, d)) :
    exec i s = whenRunning s (s.write n d) := by
  cases i <;> simp [plainStoreOf] at h
  all_goals
    obtain ⟨rfl, rfl⟩ := h
    rfl

/-- Everything an operation that takes effect can have done. RESET and CLOSE need a CORE that is not CLOSED, every other operation
one that is RUNNING (45_host_sync_lifecycle.md R225). -/
theorem exec_eq_next {i : Instr} {t : State} (h : exec i s = .next t) :
    (i = .reset ∧ s.life ≠ .closed ∧ t = (s.withBank (clearAndLoad Config.hardware s.hostTime)).withLife .running) ∨
    (i = .close ∧ s.life ≠ .closed ∧ t = s.withLife .closed) ∨
    (s.life = .running ∧
      ((∃ a, i = .rd a ∧ t = s.answer (s.read (rdIndex a))) ∨
       (∃ n d, plainStoreOf i = some (n, d) ∧ t = s.write n d) ∨
       (i = .wrIstat ∧ t = s.write ISTAT 0x00#8) ∨
       (i = .wrRstcnt ∧ t = (s.write MS 0x00#8).write HS 0x00#8) ∨
       (i = .wrRstram ∧ t = s.withBank (clearAndLoad Config.hardware s.hostTime)) ∨
       (i = .wrGo ∧ t = s.withBank (load Config.hardware s.hostTime s.bank)) ∨
       (i = .tick ∧ t = tick Config.hardware s))) := by
  cases i
  case reset =>
    rw [exec_reset, unlessClosed_eq_next] at h
    exact .inl ⟨rfl, h.1, h.2.symm⟩
  case close =>
    rw [exec_close, unlessClosed_eq_next] at h
    exact .inr (.inl ⟨rfl, h.1, h.2.symm⟩)
  case reserved5 => cases h
  case reserved67 => cases h
  all_goals
    refine .inr (.inr ?_)
    simp only [exec_rd, exec_wrStoreClock, exec_wrStoreIctrl, exec_wrStoreStatus, exec_wrStoreStby, exec_wrStoreTest,
      exec_wrIstat, exec_wrRstcnt, exec_wrRstram, exec_wrGo, exec_tick, whenRunning_eq_next] at h
    obtain ⟨hl, rfl⟩ := h
    refine ⟨hl, ?_⟩
  case rd a => exact .inl ⟨a, rfl, rfl⟩
  case wrIstat => exact .inr (.inr (.inl ⟨rfl, rfl⟩))
  case wrRstcnt => exact .inr (.inr (.inr (.inl ⟨rfl, rfl⟩)))
  case wrRstram => exact .inr (.inr (.inr (.inr (.inl ⟨rfl, rfl⟩))))
  case wrGo => exact .inr (.inr (.inr (.inr (.inr (.inl ⟨rfl, rfl⟩)))))
  case tick => exact .inr (.inr (.inr (.inr (.inr (.inr ⟨rfl, rfl⟩)))))
  all_goals exact .inr (.inl ⟨_, _, rfl, rfl⟩)

end Sys2Proof.Machine
end

