-- ==== Sys2Proof/Laws/Load.lean ====
section
/-! SUPPORT. Everything a Load writes (45_host_sync_lifecycle.md R211, R216), once, for this hardware's parameters. -/

namespace Sys2Proof.Machine

/-- The cells after a Load: indices 0-7 and 14 from the sample, every other as before. -/
theorem cell_load (h : HostTime) (b : Bank) (i : Nat) :
    cell (load Config.hardware h b) i =
      match i with
      | 0 => 0x00#8
      | 1 => 0x00#8
      | 2 => toBCD h.second
      | 3 => toBCD h.minute
      | 4 => toBCD h.hour
      | 5 => toBCD (h.weekday + 1)
      | 6 => toBCD h.day
      | 7 => toBCD h.month
      | 14 => toBCD (h.year - 1980)
      | i => cell b i := by
  simp only [load, loadYear, Config.hardware, cell_store]
  rcases Nat.lt_or_ge i 15 with hi | hi
  · interval_cases i <;> simp
  · obtain ⟨k, rfl⟩ := Nat.exists_eq_add_of_le' hi
    simp

/-- Loading the same sample twice is loading it once (20_memory.md R58). -/
theorem load_load (h : HostTime) (b : Bank) :
    load Config.hardware h (load Config.hardware h b) = load Config.hardware h b := by
  apply bank_ext
  intro i _
  simp only [cell_load]
  split <;> simp_all

end Sys2Proof.Machine
end

