-- ==== Sys2Proof/Laws/PerInstr.lean ====
section
/-! SUPPORT. For every operation: the canonical word it encodes to matches the match and mask of its own row (30_encoding.md R79). -/

namespace Sys2Proof.Laws.WordInRow

/-- The word of `i` matches the row of `i`. -/
def Statement (i : Instr) : Prop := (rowOf i).selects (encode i) = true

theorem rd (a : BitVec 5) : Statement (.rd a) := by unfold Statement; revert a; decide

theorem wrStoreClock (a : BitVec 4) (d : Byte) : Statement (.wrStoreClock a d) := by
  have h := mkWord_and_top 0b001#3 (0b0#1 ++ a : BitVec (1 + 4)) d 0xF0#8
  have h0 : mkWord 0b001#3 (0b0#1 ++ a : BitVec (1 + 4)) 0#8 &&& 0xF000#16 = 0x2000#16 := by clear h; revert a; decide
  exact decide_eq_true (h.trans h0)

theorem wrIstat : Statement .wrIstat := by unfold Statement; decide

theorem wrStoreIctrl (d : Byte) : Statement (.wrStoreIctrl d) := by unfold Statement; revert d; decide

theorem wrRstcnt : Statement .wrRstcnt := by unfold Statement; decide

theorem wrRstram : Statement .wrRstram := by unfold Statement; decide

theorem wrStoreStatus (d : Byte) : Statement (.wrStoreStatus d) := by unfold Statement; revert d; decide

theorem wrGo : Statement .wrGo := by unfold Statement; decide

theorem wrStoreStby (a : BitVec 1) (d : Byte) : Statement (.wrStoreStby a d) := by
  have h := mkWord_and_top 0b001#3 (0b1011#4 ++ a : BitVec (4 + 1)) d 0xFE#8
  have h0 : mkWord 0b001#3 (0b1011#4 ++ a : BitVec (4 + 1)) 0#8 &&& 0xFE00#16 = 0x3600#16 := by clear h; revert a; decide
  exact decide_eq_true (h.trans h0)

theorem wrStoreTest (a : BitVec 3) (d : Byte) : Statement (.wrStoreTest a d) := by
  have h := mkWord_and_top 0b001#3 (0b11#2 ++ a : BitVec (2 + 3)) d 0xF8#8
  have h0 : mkWord 0b001#3 (0b11#2 ++ a : BitVec (2 + 3)) 0#8 &&& 0xF800#16 = 0x3800#16 := by clear h; revert a; decide
  exact decide_eq_true (h.trans h0)

theorem tick : Statement .tick := by unfold Statement; decide

theorem reset : Statement .reset := by unfold Statement; decide

theorem close : Statement .close := by unfold Statement; decide

theorem reserved5 : Statement .reserved5 := by unfold Statement; decide

theorem reserved67 : Statement .reserved67 := by unfold Statement; decide

end Sys2Proof.Laws.WordInRow
end

