-- ==== Sys2Proof/Laws/Run.lean ====
section
/-! SUPPORT. A run of the machine, one step at a time. -/

namespace Sys2Proof.Machine

theorem run_zero (s : State) : Sys2Proof.core.run 0 s = .next s := rfl

/-- A run of any machine whose first step answers a next state goes on from it. -/
theorem run_succ_of_step (M : Host.Core) {s t : M.State} (n : Nat) (h : M.step s = .next t) :
    M.run (n + 1) s = M.run n t := by
  rw [Host.Core.run.eq_def]
  simp [h]

theorem run_succ_of_next {s t : State} (n : Nat) (h : step s = .next t) :
    Sys2Proof.core.run (n + 1) s = Sys2Proof.core.run n t := run_succ_of_step Sys2Proof.core n h

/-- A step with an operation pending is that operation's `exec`. -/
theorem step_cons {s : State} {t : Transaction} {rest : List Transaction} (h : s.input = t :: rest) :
    step s = exec (decode t.word) { s with input := rest, hostTime := t.host } := by
  simp [step, takeTransaction_cons h]

end Sys2Proof.Machine
end

