-- ==== Sys2Proof/Laws/Tick.lean ====
section
/-! SUPPORT. The small lemmas of the cascade: what each of its moves does to the bank and to the pending set, which cells its
steps can write (43_tick_engine.md R164), and that they never lose a pending bit. -/

namespace Sys2Proof.Machine

@[simp] theorem put_bank (i : Nat) (v : Byte) (t : Cascade) : (t.put i v).bank = store t.bank i v := rfl
@[simp] theorem put_pending (i : Nat) (v : Byte) (t : Cascade) : (t.put i v).pending = t.pending := rfl
@[simp] theorem advance_bank (c : Config) (i : Nat) (t : Cascade) :
    (t.advance c i).bank = store t.bank i (incBCD (cell t.bank i) c.tickStep) := rfl
@[simp] theorem advance_pending (c : Config) (i : Nat) (t : Cascade) : (t.advance c i).pending = t.pending := rfl
@[simp] theorem pend_bank (c : Config) (k : Condition) (t : Cascade) : (t.pend c k).bank = t.bank := rfl
@[simp] theorem pend_pending (c : Config) (k : Condition) (t : Cascade) :
    (t.pend c k).pending = t.pending ||| conditionBit c k := rfl

@[simp] theorem record_bank (c : Config) (k : Condition) (t : Cascade) : (t.record c k).bank = t.bank := by
  unfold Cascade.record
  split <;> rfl

@[simp] theorem record_pending (c : Config) (k : Condition) (t : Cascade) :
    (t.record c k).pending = t.pending ||| (if enabled c t.bank k then conditionBit c k else 0x00#8) := by
  unfold Cascade.record
  split <;> simp

@[simp] theorem tickCompare_bank (c : Config) (t : Cascade) : (tickCompare c t).bank = t.bank := by
  unfold tickCompare
  split
  · split <;> rfl
  · rfl

/-- The control bits depend on `ICTRL` alone (R165). -/
theorem enabled_store (c : Config) (b : Bank) (k : Condition) {i : Nat} (v : Byte) (h : i ≠ 17) :
    enabled c (store b i v) k = enabled c b k := by
  simp [enabled, cell_store_ne b v h]

/-- The cells the cascade may write: 2 to 7 and the year register (R164). -/
def cascadeWrites (c : Config) (i : Nat) : Prop := (2 ≤ i ∧ i ≤ 7) ∨ ∃ y, c.yearIdx = some y ∧ y.val = i

theorem cell_tickYear (c : Config) (t : Cascade) {i : Nat} (h : ¬cascadeWrites c i) :
    cell (tickYear c t).bank i = cell t.bank i := by
  unfold tickYear
  split
  · next y hy =>
    have hne : y.val ≠ i := fun he => h (.inr ⟨y, hy, he⟩)
    simp [hne]
  · rfl

/-- Steps 1 to 6 write no other cell (R164). -/
theorem cell_tickRollover (c : Config) (b : Bank) {i : Nat} (h : ¬cascadeWrites c i) :
    cell (tickRollover c b).bank i = cell b i := by
  have h' : ¬(2 ≤ i ∧ i ≤ 7) := fun hw => h (.inl hw)
  have hne : 2 ≠ i ∧ 3 ≠ i ∧ 4 ≠ i ∧ 5 ≠ i ∧ 6 ≠ i ∧ 7 ≠ i := by omega
  obtain ⟨h2, h3, h4, h5, h6, h7⟩ := hne
  simp only [tickRollover, tickStep2, tickStep3, tickStep4, tickDay, tickWeekday, tickStep5, tickStep6]
  repeat' split
  all_goals simp [cell_tickYear c _ h, h2, h3, h4, h5, h6, h7]

/-- A TICK writes no other cell but `ISTAT` (R164). -/
theorem cell_tick (c : Config) (s : State) {i : Nat} (h : ¬cascadeWrites c i) (h16 : i ≠ 16) :
    cell (tick c s).bank i = cell s.bank i := by
  have hne : 16 ≠ i := fun he => h16 he.symm
  simp only [tick, commitStatus, State.withBank]
  split <;> simp [cell_tickRollover c s.bank h, hne]

end Sys2Proof.Machine
end

