-- ==== Sys2Proof/Tests/Slice0.lean ====
section
/-! SUPPORT. Tests: the words of the encoding written out bit by bit, the worked examples and vectors of spec/95_test_vectors.md
(each named in its comment), the ill-formed terms that the checks of WellFormed.lean refuse, and for every obligation with
hypotheses a witness that meets them. -/

namespace Sys2Proof.Tests

open Sys2Proof.Machine Sys2Proof.Claims

/-! ## Builders -/

/-- The sample of the spec's vectors, 2025-11-01 18:43:27 wd=6, with another hour, minute and second. -/
def at' (hour minute second : Int) : HostTime := ⟨2025, 11, 1, hour, minute, second, 6⟩

/-- The reset state with some cells set. -/
def withCells (cells : List (Nat × Byte)) : State :=
  { State.reset with bank := cells.foldl (fun b p => store b p.1 p.2) State.reset.bank }

/-- The seven time cells as the rows of 95_test_vectors.md 2.4 write them, SEC MIN HR DOW DOM MON YEAR, and `ICTRL`. -/
def tickRow (s m h dow dom mon y ictrl : Byte) : State :=
  withCells [(2, s), (3, m), (4, h), (5, dow), (6, dom), (7, mon), (14, y), (17, ictrl)]

/-- The state with these words pending, each with the spec's sample. -/
def pending (words : List Word) (s : State) : State := { s with input := words.map fun w => ⟨w, at' 18 43 27⟩ }

/-- The state of another lifecycle state. -/
def inLife (l : Life) : State := { State.reset with life := l }

/-- Some cells of the bank after an operation, if it has a step. -/
def cellsAfter (r : Result) (cells : List Nat) : Option (List Byte) :=
  match r with
  | .next t => some (cells.map (cell t.bank))
  | .fault _ => none
  | .refused _ => none

/-- The answers after an operation, if it has a step. -/
def answersAfter (r : Result) : Option (List Byte) :=
  match r with
  | .next t => some t.answers
  | .fault _ => none
  | .refused _ => none

/-- The lifecycle state after an operation, if it has a step. -/
def lifeAfter (r : Result) : Option Life :=
  match r with
  | .next t => some t.life
  | .fault _ => none
  | .refused _ => none

/-- Why an operation is refused, if it is. -/
def refusalOf (r : Result) : Option Refusal :=
  match r with
  | .next _ => none
  | .fault _ => none
  | .refused q => some q

/-! ## WellFormed refuses, check by check -/

theorem test_wellFormed_refuses_reserved5 : Instr.wellFormed .reserved5 = false := by decide
theorem test_wellFormed_refuses_reserved67 : Instr.wellFormed .reserved67 = false := by decide

/-- Each field of the host-time tuple out of its range, once below and once above (45_host_sync_lifecycle.md R210, R211). -/
theorem test_hostTime_refuses_each_field :
    HostTime.valid Config.hardware ⟨1979, 11, 1, 18, 43, 27, 6⟩ = false ∧
    HostTime.valid Config.hardware ⟨2080, 11, 1, 18, 43, 27, 6⟩ = false ∧
    HostTime.valid Config.hardware ⟨2025, 0, 1, 18, 43, 27, 6⟩ = false ∧
    HostTime.valid Config.hardware ⟨2025, 13, 1, 18, 43, 27, 6⟩ = false ∧
    HostTime.valid Config.hardware ⟨2025, 11, 0, 18, 43, 27, 6⟩ = false ∧
    HostTime.valid Config.hardware ⟨2025, 12, 32, 18, 43, 27, 6⟩ = false ∧
    HostTime.valid Config.hardware ⟨2025, 11, 1, -1, 43, 27, 6⟩ = false ∧
    HostTime.valid Config.hardware ⟨2025, 11, 1, 24, 43, 27, 6⟩ = false ∧
    HostTime.valid Config.hardware ⟨2025, 11, 1, 18, 60, 27, 6⟩ = false ∧
    HostTime.valid Config.hardware ⟨2025, 11, 1, 18, 43, 60, 6⟩ = false ∧
    HostTime.valid Config.hardware ⟨2025, 11, 1, 18, 43, 27, -1⟩ = false ∧
    HostTime.valid Config.hardware ⟨2025, 11, 1, 18, 43, 27, 7⟩ = false := by decide

/-- A day that its month does not have: 31 November, 30 February 2000, 29 February 2001; 29 February 2000 exists. -/
theorem test_hostTime_refuses_missing_days :
    HostTime.valid Config.hardware ⟨2025, 11, 31, 18, 43, 27, 6⟩ = false ∧
    HostTime.valid Config.hardware ⟨2000, 2, 30, 0, 0, 0, 3⟩ = false ∧
    HostTime.valid Config.hardware ⟨2001, 2, 29, 0, 0, 0, 4⟩ = false ∧
    HostTime.valid Config.hardware ⟨2000, 2, 29, 0, 0, 0, 2⟩ = true := by decide

/-- Each cell of R33 out of its range, or no BCD. -/
theorem test_bank_refuses_each_cell :
    bankWellFormed Config.hardware (withCells [(2, 0x60#8)]).bank = false ∧
    bankWellFormed Config.hardware (withCells [(2, 0x0A#8)]).bank = false ∧
    bankWellFormed Config.hardware (withCells [(3, 0x60#8)]).bank = false ∧
    bankWellFormed Config.hardware (withCells [(4, 0x24#8)]).bank = false ∧
    bankWellFormed Config.hardware (withCells [(5, 0x00#8)]).bank = false ∧
    bankWellFormed Config.hardware (withCells [(5, 0x08#8)]).bank = false ∧
    bankWellFormed Config.hardware (withCells [(6, 0x00#8)]).bank = false ∧
    bankWellFormed Config.hardware (withCells [(6, 0x31#8)]).bank = false ∧
    bankWellFormed Config.hardware (withCells [(7, 0x13#8)]).bank = false ∧
    bankWellFormed Config.hardware (withCells [(7, 0x00#8)]).bank = false ∧
    bankWellFormed Config.hardware (withCells [(14, 0xC0#8)]).bank = false := by decide

/-! ## Decoding: the words of 30_encoding.md R71, R79, written out as OP A D -/

theorem test_decode_rd : decode 0b000_10000_00000000#16 = .rd 16#5 := by decide
theorem test_decode_rd_ignores_data : decode 0b000_11111_01010101#16 = .rd 31#5 := by decide
theorem test_decode_wrStoreClock : decode 0b001_01111_00010010#16 = .wrStoreClock 15#4 0x12#8 := by decide
theorem test_decode_wrIstat : decode 0b001_10000_11111111#16 = .wrIstat := by decide
theorem test_decode_wrStoreIctrl : decode 0b001_10001_00000100#16 = .wrStoreIctrl 0x04#8 := by decide
theorem test_decode_wrRstcnt : decode 0b001_10010_11001101#16 = .wrRstcnt := by decide
theorem test_decode_wrRstram : decode 0b001_10011_00000000#16 = .wrRstram := by decide
theorem test_decode_wrStoreStatus : decode 0b001_10100_01110111#16 = .wrStoreStatus 0x77#8 := by decide
theorem test_decode_wrGo : decode 0b001_10101_10101011#16 = .wrGo := by decide
theorem test_decode_wrStoreStby :
    decode 0b001_10110_00000001#16 = .wrStoreStby 0#1 0x01#8 ∧ decode 0b001_10111_00000010#16 = .wrStoreStby 1#1 0x02#8 := by
  decide
theorem test_decode_wrStoreTest :
    decode 0b001_11000_10000001#16 = .wrStoreTest 0#3 0x81#8 ∧ decode 0b001_11111_00000000#16 = .wrStoreTest 7#3 0x00#8 := by
  decide
theorem test_decode_tick : decode 0b010_11111_11111111#16 = .tick := by decide
theorem test_decode_reset : decode 0b011_11010_10111100#16 = .reset := by decide
theorem test_decode_close : decode 0b100_11111_00000000#16 = .close := by decide
theorem test_decode_reserved5 : decode 0b101_00000_00000000#16 = .reserved5 := by decide
theorem test_decode_reserved67 :
    decode 0b110_00000_00000000#16 = .reserved67 ∧ decode 0b111_00001_00100011#16 = .reserved67 := by decide

/-- What is no single 16-bit word is rejected by name (R71, R77). -/
theorem test_decodeNumber_rejects :
    decodeNumber 32 0x4000 = .error .longerThanOneWord ∧ decodeNumber 16 0x10000 = .error .notAWord := by
  exact ⟨rfl, rfl⟩

/-- Every row of the table, as the host numbers it, decodes and has a step from the reset state, or is refused as reserved. -/
theorem test_table_rows_run :
    ([0x0000, 0x2000, 0x3000, 0x3100, 0x3200, 0x3300, 0x3400, 0x3500, 0x3600, 0x3800, 0x4000, 0x6000] : List Nat).map
      (fun w => ((decodeTableWord 16 w).isSome, lifeAfter (step (State.reset.withFetchWord 16 w)))) =
        List.replicate 12 (true, some .running) ∧
    lifeAfter (step (State.reset.withFetchWord 16 0x8000)) = some .closed ∧
    refusalOf (step (State.reset.withFetchWord 16 0xA000)) = some .reservedOp ∧
    refusalOf (step (State.reset.withFetchWord 16 0xC000)) = some .reservedOp := by decide

/-- A fetch word takes the place of the transaction pending first. -/
theorem test_withFetchWord_replaces_the_first :
    (pending [0x4000#16, 0x8000#16] State.reset).withFetchWord 16 0x0300 = pending [0x0300#16, 0x8000#16] State.reset := by
  decide

/-! ## Codec, calendar, alarm: 95_test_vectors.md 2.2, 2.5 and 43_tick_engine.md R170 -/

theorem test_toBCD :
    toBCD 9 = 0x09#8 ∧ toBCD 10 = 0x10#8 ∧ toBCD 45 = 0x45#8 ∧ toBCD 100 = 0x00#8 ∧ toBCD 165 = 0x65#8 ∧
      toBCD (-1) = 0x99#8 := by decide
theorem test_fromBCD :
    fromBCD 0x59#8 = 59 ∧ fromBCD 0x0A#8 = 10 ∧ fromBCD 0xA0#8 = 100 ∧ fromBCD 0x5F#8 = 65 ∧ fromBCD 0xFF#8 = 165 := by decide
theorem test_isBCD : isBCD 0x59#8 = true ∧ isBCD 0x5A#8 = false ∧ isBCD 0xA0#8 = false ∧ isBCD 0x9A#8 = false := by decide
theorem test_incBCD :
    incBCD 0x09#8 1 = 0x10#8 ∧ incBCD 0x59#8 1 = 0x60#8 ∧ incBCD 0x99#8 1 = 0x00#8 ∧ incBCD 0x45#8 110 = 0x55#8 ∧
      incBCD 0x0A#8 0 = 0x10#8 ∧ incBCD 0x5F#8 1 = 0x66#8 ∧ incBCD 0xC0#8 1 = 0x21#8 ∧ incBCD 0xFF#8 1 = 0x66#8 := by decide
theorem test_dim :
    dim Config.hardware 2 1981 = 28 ∧ dim Config.hardware 2 2000 = 29 ∧ dim Config.hardware 2 2100 = 28 ∧
      dim Config.hardware 4 1981 = 30 ∧ dim Config.hardware 13 1981 = 31 := by decide

/-- The ten compared cells as 2.5 writes them: live, then A_SEC A_MIN A_HR x[14] A_MON. -/
def alarmRow (s m h dom mon as am ah y amon : Byte) : Bank :=
  (withCells [(2, s), (3, m), (4, h), (6, dom), (7, mon), (10, as), (11, am), (12, ah), (14, y), (15, amon)]).bank

/-- A1, A2, A3, A4, A5 and A6, over the cells as the TICK leaves them. -/
theorem test_alarm_vectors :
    alarmMatch Config.hardware (alarmRow 0x30 0x43 0x18 0x01 0x11 0x30 0x43 0x18 0x45 0x11) = false ∧
    alarmMatch Config.hardware (alarmRow 0x30 0x43 0x18 0x01 0x11 0x30 0x43 0x18 0xC0 0x11) = true ∧
    alarmMatch Config.hardware (alarmRow 0x30 0x43 0x18 0x01 0x11 0x31 0xC0 0xC0 0xC0 0xC0) = false ∧
    alarmMatch Config.hardware (alarmRow 0x30 0x43 0x18 0x01 0x11 0xFF 0xFF 0xFF 0xFF 0xFF) = true ∧
    alarmMatch Config.hardware (alarmRow 0x30 0x43 0x18 0x01 0x11 0x80 0xC0 0xC0 0xC0 0xC0) = false ∧
    alarmMatch Config.hardware (alarmRow 0x25 0x00 0x09 0x25 0x03 0x25 0x00 0x09 0x25 0x03) = true := by decide

/-! ## Operations, one step each -/

/-- V1: RD 3 after the reset answers 0x43. -/
theorem test_rd_minutes : answersAfter (exec (.rd 3#5) State.reset) = some [0x43#8] := by decide
/-- L-8: RD before any RESET is refused. -/
theorem test_rd_before_reset : refusalOf (exec (.rd 2#5) (State.initial zeroBank)) = some .notConstructed := by decide
/-- V4: WR 2, 0x75 stores an out-of-range second and nothing else. -/
theorem test_wrStoreClock_verbatim :
    cellsAfter (exec (.wrStoreClock 2#4 0x75#8) State.reset) [2, 3, 16] = some [0x75#8, 0x43#8, 0x00#8] := by decide
/-- E7: ISTAT 0x0C is cleared; ICTRL stays. -/
theorem test_wrIstat_clears :
    cellsAfter (exec .wrIstat (withCells [(16, 0x0C#8), (17, 0x04#8)])) [16, 17] = some [0x00#8, 0x04#8] := by decide
/-- V3. -/
theorem test_wrStoreIctrl : cellsAfter (exec (.wrStoreIctrl 0x04#8) State.reset) [17, 16] = some [0x04#8, 0x00#8] := by decide
/-- V6. -/
theorem test_wrRstcnt :
    cellsAfter (exec .wrRstcnt (withCells [(0, 0x12#8), (1, 0x34#8)])) [0, 1, 2, 18] =
      some [0x00#8, 0x00#8, 0x27#8, 0x00#8] := by decide
/-- V9. -/
theorem test_wrRstram :
    cellsAfter (exec .wrRstram (withCells [(17, 0xFF#8), (10, 0x15#8), (2, 0x00#8)])) [17, 10, 2] =
      some [0x00#8, 0x00#8, 0x27#8] := by decide
/-- V13. -/
theorem test_wrStoreStatus : cellsAfter (exec (.wrStoreStatus 0x80#8) State.reset) [20] = some [0x80#8] := by decide
/-- E8, V12: GO keeps ICTRL and A_SEC and rewrites 14. -/
theorem test_wrGo :
    cellsAfter (exec .wrGo (withCells [(17, 0x3C#8), (10, 0x15#8), (14, 0x10#8), (2, 0x00#8)])) [17, 10, 14, 2, 21] =
      some [0x3C#8, 0x15#8, 0x45#8, 0x27#8, 0x00#8] := by decide
/-- V13. -/
theorem test_wrStoreStby :
    cellsAfter (exec (.wrStoreStby 1#1 0x5A#8) State.reset) [22, 23] = some [0x00#8, 0x5A#8] := by decide
/-- V13. -/
theorem test_wrStoreTest :
    cellsAfter (exec (.wrStoreTest 3#3 0x5A#8) State.reset) [26, 27, 28] = some [0x00#8, 0x5A#8, 0x00#8] := by decide
/-- T13: 31 December 1999, everything enabled: every carry, all conditions but WEEK and TENTHS. -/
theorem test_tick_T13 :
    cellsAfter (exec .tick (tickRow 0x59 0x59 0x23 0x06 0x31 0x12 0x19 0xFE)) [2, 3, 4, 5, 6, 7, 14, 16, 17] =
      some [0x00#8, 0x00#8, 0x00#8, 0x07#8, 0x01#8, 0x01#8, 0x20#8, 0xBC#8, 0xFE#8] := by decide
/-- T5: the day-of-week wrap records WEEK and DAY. -/
theorem test_tick_T5 :
    cellsAfter (exec .tick (tickRow 0x59 0x59 0x23 0x07 0x14 0x05 0x45 0x60)) [2, 3, 4, 5, 6, 7, 14, 16] =
      some [0x00#8, 0x00#8, 0x00#8, 0x01#8, 0x15#8, 0x05#8, 0x45#8, 0x60#8] := by decide
/-- L-2: 2000-02-29 00:00:00 wd=2. -/
theorem test_reset_L2 :
    cellsAfter (exec .reset { withCells [(17, 0xFF#8)] with hostTime := ⟨2000, 2, 29, 0, 0, 0, 2⟩ }) [2, 3, 4, 5, 6, 7, 14, 17] =
      some [0x00#8, 0x00#8, 0x00#8, 0x03#8, 0x29#8, 0x02#8, 0x20#8, 0x00#8] := by decide
/-- L-6, L-7: a year before 1980, and a leap second, are converted unchecked. -/
theorem test_reset_L6_L7 :
    cellsAfter (exec .reset { State.reset with hostTime := ⟨1979, 6, 15, 12, 0, 60, 5⟩ }) [14, 2] = some [0x99#8, 0x60#8] := by
  decide
/-- L-9, L-10. -/
theorem test_close_then_rd :
    lifeAfter (exec .close (State.initial zeroBank)) = some .closed ∧
      refusalOf (exec (.rd 2#5) (inLife .closed)) = some .closed := by decide
/-- L-12. -/
theorem test_reserved5 : refusalOf (exec .reserved5 State.reset) = some .reservedOp := by decide
theorem test_reserved67 : refusalOf (exec .reserved67 State.reset) = some .reservedOp := by decide

/-! ## Witnesses: a concrete state and operands that meet the hypotheses of each obligation, per clause where it has several -/

/-- `n` TICKs pending. -/
def ticks (n : Nat) (s : State) : State := { s with input := List.replicate n ⟨0x4000#16, at' 18 43 27⟩ }

theorem nextAreTicks_ticks (n : Nat) (s : State) : NextAreTicks n (ticks n s) := by
  refine ⟨by simp [ticks], ?_⟩
  intro t ht
  have h := List.eq_of_mem_replicate (List.mem_of_mem_take ht)
  subst h
  decide

theorem witness_WordsDecodeByTheTable_stores :
    storeTarget (decode (wrWord 0#5 0x12#8)) = some (0, 0x12#8) ∧ storeTarget (decode (wrWord 15#5 0x12#8)) = some (15, 0x12#8) ∧
    storeTarget (decode (wrWord 17#5 0x12#8)) = some (17, 0x12#8) ∧ storeTarget (decode (wrWord 20#5 0x12#8)) = some (20, 0x12#8) ∧
    storeTarget (decode (wrWord 22#5 0x12#8)) = some (22, 0x12#8) ∧ storeTarget (decode (wrWord 23#5 0x12#8)) = some (23, 0x12#8) ∧
    storeTarget (decode (wrWord 24#5 0x12#8)) = some (24, 0x12#8) ∧ storeTarget (decode (wrWord 31#5 0x12#8)) = some (31, 0x12#8) := by
  decide

theorem witness_StepRunsTheNextTransaction :
    (pending [0x4000#16, 0x0300#16] State.reset).input = ⟨0x4000#16, at' 18 43 27⟩ :: [⟨0x0300#16, at' 18 43 27⟩] := by decide

theorem witness_NothingPendingNothingHappens : State.reset.input = [] := by decide

theorem witness_ReservedWordsAreRefused :
    (pending [0xA000#16] State.reset).input = ⟨0xA000#16, at' 18 43 27⟩ :: [] ∧ 0xA000 ≤ (0xA000#16).toNat ∧
    0xA000 ≤ (0xFFFF#16).toNat := by decide

theorem witness_running : State.reset.life = .running := by decide

theorem witness_ReadTwiceAnswersTheSame :
    (pending [rdWord 3#5, rdWord 3#5] State.reset).life = .running ∧
    (pending [rdWord 3#5, rdWord 3#5] State.reset).input = ⟨rdWord 3#5, at' 18 43 27⟩ :: ⟨rdWord 3#5, at' 18 43 27⟩ :: [] := by
  decide

theorem witness_PlainStoreStoresVerbatim :
    State.reset.life = .running ∧ storeTarget (.wrStoreClock 0#4 0x75#8) = some (0, 0x75#8) ∧
    storeTarget (.wrStoreClock 15#4 0x75#8) = some (15, 0x75#8) ∧ storeTarget (.wrStoreIctrl 0x75#8) = some (17, 0x75#8) ∧
    storeTarget (.wrStoreStatus 0x75#8) = some (20, 0x75#8) ∧ storeTarget (.wrStoreStby 0#1 0x75#8) = some (22, 0x75#8) ∧
    storeTarget (.wrStoreStby 1#1 0x75#8) = some (23, 0x75#8) ∧ storeTarget (.wrStoreTest 0#3 0x75#8) = some (24, 0x75#8) ∧
    storeTarget (.wrStoreTest 7#3 0x75#8) = some (31, 0x75#8) := by decide

/-- Each index falls under one clause. -/
theorem witness_WriteDispatchesByIndex :
    (inLife .closed).life ≠ .running ∧ State.reset.life = .running ∧ (16#5).toNat = 16 ∧ (18#5).toNat = 18 ∧ (19#5).toNat = 19 ∧ (21#5).toNat = 21 ∧
    (∀ a ∈ [0#5, 15#5, 17#5, 20#5, 22#5, 31#5], a.toNat ∉ [16, 18, 19, 21]) := by decide

theorem witness_StatusReadsBackZero :
    (pending [wrWord 16#5 0xFF#8, rdWord 16#5] (withCells [(16, 0x0C#8)])).life = .running ∧
    (pending [wrWord 16#5 0xFF#8, rdWord 16#5] (withCells [(16, 0x0C#8)])).input =
      ⟨wrWord 16#5 0xFF#8, at' 18 43 27⟩ :: ⟨rdWord 16#5, at' 18 43 27⟩ :: [] := by decide

theorem witness_WritesAreIdempotent :
    (∃ t, storeTarget (.wrStoreClock 2#4 0x75#8) = some (2, 0x75#8) ∧ exec (.wrStoreClock 2#4 0x75#8) State.reset = .next t) ∧
    (∃ t, exec .wrIstat State.reset = .next t) ∧ (∃ t, exec .wrRstcnt State.reset = .next t) ∧
    (∃ t, exec .wrRstram State.reset = .next t) ∧ ∃ t, exec .wrGo State.reset = .next t :=
  ⟨⟨_, rfl, rfl⟩, ⟨_, rfl⟩, ⟨_, rfl⟩, ⟨_, rfl⟩, ⟨_, rfl⟩⟩

theorem witness_OutsideTheBankIsSentinel :
    32 ≤ 32 ∧ cell zeroBank 32 = 0xFF#8 ∧ cell zeroBank 31 = 0x00#8 ∧ decode (rdWord 31#5) = .rd 31#5 := by decide

/-- Ports on both sides of both ends of a window at 0x340: the ends are in, their neighbours out. -/
theorem witness_PortsMapToIndices :
    let c : Config := { Config.hardware with ioBase := 0x340 }
    (0x33F < c.ioBase ∨ c.ioBase + 32 ≤ 0x33F) ∧ (0x360 < c.ioBase ∨ c.ioBase + 32 ≤ 0x360) ∧
    memRead c 0x340 = some (rdWord 0#5) ∧ memRead c 0x35F = some (rdWord 31#5) := by decide

theorem witness_ResetClearsAndLoads :
    (State.initial zeroBank).life ≠ .closed ∧ State.reset.life ≠ .closed ∧ (inLife .closed).life = .closed := by decide

theorem witness_LoadOfValidTupleIsWellFormed :
    State.reset.life = .running ∧ HostTime.valid Config.hardware State.reset.hostTime = true ∧
    HostTime.valid Config.hardware ⟨1980, 1, 1, 0, 0, 0, 0⟩ = true ∧
    HostTime.valid Config.hardware ⟨2079, 12, 31, 23, 59, 59, 6⟩ = true := by decide

theorem witness_CloseEndsTheLife :
    (State.initial zeroBank).life ≠ .closed ∧ State.reset.life ≠ .closed ∧ (inLife .closed).life = .closed := by decide

/-- Each state and operation on either side of R225. -/
theorem witness_LifecycleAdmission :
    Instr.wellFormed .tick = true ∧ Instr.wellFormed .reset = true ∧ State.reset.life = .running ∧
    (State.initial zeroBank).life = .uninit ∧ (inLife .closed).life = .closed := by decide

theorem witness_LifecycleTransitions :
    (∃ t, step (pending [0x6000#16] (State.initial zeroBank)) = .next t ∧ t.life = .running) ∧
    (∃ t, step (pending [0x8000#16] State.reset) = .next t ∧ t.life = .closed) ∧
    step (inLife .closed) = .next (inLife .closed) ∧ (inLife .closed).life = .closed :=
  ⟨⟨_, rfl, rfl⟩, ⟨_, rfl, rfl⟩, rfl, rfl⟩

theorem witness_UnconstructedBankIsUnobservable : (State.initial zeroBank).life = .uninit := by decide

/-- Two states that differ in everything but the bank and `life`. -/
theorem witness_CoreKeepsOnlyBankAndLife :
    let s₂ : State := { ticks 1 State.reset with hostTime := at' 0 0 0, answers := [0x12#8], irqEvents := 7 }
    State.reset.bank = s₂.bank ∧ State.reset.life = s₂.life ∧ State.reset ≠ s₂ ∧
    ((Instr.tick = .reset ∨ Instr.tick = .wrRstram ∨ Instr.tick = .wrGo) → State.reset.hostTime = s₂.hostTime) := by decide

/-- A TICK with SECONDS enabled records bit 2. -/
theorem witness_TickEmitsAtMostOneEvent_event :
    let s := tickRow 0x56 0x34 0x12 0x03 0x14 0x05 0x45 0x04
    s.life = .running ∧ (∃ t, exec .tick s = .next t ∧ ∃ n, n < 8 ∧ PendingBit s.bank t.bank n) ∧
    ∃ n, n < 8 ∧ PendingBit s.bank (tick { Config.hardware with irqLine := some 5 } s).bank n := by
  refine ⟨by decide, ⟨_, rfl, 2, by decide, ?_⟩, 2, by decide, ?_⟩ <;> simp only [PendingBit] <;> decide

/-- T8: nothing enabled, nothing recorded. -/
theorem witness_TickEmitsAtMostOneEvent_none :
    let s := tickRow 0x59 0x59 0x23 0x04 0x30 0x06 0x45 0x00
    ∃ t, exec .tick s = .next t ∧ ∀ n, n < 8 → ¬PendingBit s.bank t.bank n := by
  refine ⟨_, rfl, ?_⟩
  intro n hn
  interval_cases n <;> simp only [PendingBit, AlarmMatches] <;> decide

theorem witness_TickKeepsTheBankWellFormed :
    Config.hardware.yearIdx = some 14 ∧ Config.hardware.tickStep = 1 ∧
    bankWellFormed Config.hardware State.reset.bank = true := by decide

/-- The first and the last second of the register's hundred years. -/
theorem witness_TickIsOneSecondOfTheCalendar :
    let s := tickRow 0x59 0x59 0x23 0x01 0x31 0x12 0x99 0x00
    let r := tickRow 0x00 0x00 0x00 0x03 0x01 0x01 0x00 0x00
    s.life = .running ∧ bankWellFormed Config.hardware s.bank = true ∧ dayNumber s.bank = 36524 ∧
    r.life = .running ∧ bankWellFormed Config.hardware r.bank = true ∧ dayNumber r.bank = 0 := by decide

theorem witness_TicksCountSeconds :
    (ticks 3 State.reset).life = .running ∧ bankWellFormed Config.hardware (ticks 3 State.reset).bank = true ∧
    NextAreTicks 3 (ticks 3 State.reset) := ⟨rfl, by decide, nextAreTicks_ticks _ _⟩

/-- Midnight of 1 November 2025 with a day of TICKs pending: the three clauses at once. -/
theorem witness_FieldCycles :
    let s := ticks 86400 (withCells [(2, 0x00#8), (3, 0x00#8), (4, 0x00#8)])
    s.life = .running ∧ bankWellFormed Config.hardware s.bank = true ∧ NextAreTicks 86400 s ∧
    cell s.bank 2 = 0x00#8 ∧ cell s.bank 3 = 0x00#8 ∧ cell s.bank 4 = 0x00#8 :=
  ⟨rfl, by decide, nextAreTicks_ticks _ _, by decide, by decide, by decide⟩

theorem witness_FieldCycles_short :
    NextAreTicks 60 (ticks 60 State.reset) ∧
    NextAreTicks 3600 (ticks 3600 (withCells [(2, 0x00#8), (3, 0x00#8), (4, 0x23#8)])) :=
  ⟨nextAreTicks_ticks _ _, nextAreTicks_ticks _ _⟩

theorem witness_FebruaryFollowsTheLeapRule :
    let s := tickRow 0x59 0x59 0x23 0x03 0x28 0x02 0x00 0x00
    cell s.bank 2 = 0x59#8 ∧ cell s.bank 3 = 0x59#8 ∧ cell s.bank 4 = 0x23#8 ∧ cell s.bank 6 = 0x28#8 ∧
    cell s.bank 7 = 0x02#8 ∧ LeapRule.gregorian (fromBCD (cell s.bank 14) + 1980) = true ∧
    LeapRule.none (fromBCD (cell s.bank 14) + 1980) = false := by decide

theorem witness_DaysInMonthTable :
    12 ∈ [1, 3, 5, 7, 8, 10, 12] ∧ 11 ∈ [4, 6, 9, 11] ∧ (0 = 0 ∨ 13 ≤ 0) ∧ (13 = 0 ∨ 13 ≤ 13) := by decide

theorem witness_GregorianIsDivFourInRange :
    1980 ≤ 1980 ∧ 1980 ≤ 2079 ∧ 1980 ≤ 2079 ∧ 2079 ≤ 2079 ∧ LeapRule.gregorian 2100 ≠ decide (2100 % 4 = 0) := by decide

theorem witness_WildcardInTheYearSlot :
    State.reset.life = .running ∧ wild Config.hardware 0xC0#8 = true ∧ wild Config.hardware 0xFF#8 = true ∧
    wild Config.hardware 0xBF#8 = false := by decide

theorem witness_OutOfRangeCellsStillCarry :
    let s := tickRow 0x59 0x59 0x30 0x03 0x14 0x05 0x45 0x00
    State.reset.life = .running ∧ cell (withCells [(2, 0x75#8)]).bank 2 = 0x75#8 ∧
    cell (withCells [(2, 0x5F#8)]).bank 2 = 0x5F#8 ∧ cell s.bank 2 = 0x59#8 ∧ cell s.bank 3 = 0x59#8 ∧
    cell s.bank 4 = 0x30#8 ∧ cell s.bank 6 = 0x14#8 ∧ cell s.bank 7 = 0x05#8 := by decide

theorem witness_NoYearRegisterNoYear : ({ Config.hardware with yearIdx := none } : Config).yearIdx = none := rfl

/-- A7 and A8: an alarm that matches, gated, with `ICTRL` bit 0 clear and set. -/
theorem witness_CompareGateDecidesCompare :
    let a := [(2, 0x29#8), (10, 0x30#8), (11, 0xC0#8), (12, 0xC0#8), (14, 0xC0#8), (15, 0xC0#8)]
    (cell (withCells a).bank 16).getLsbD 0 = false ∧
    cell (tick { Config.hardware with compareGated := true } (withCells a)).bank 16 = 0x00#8 ∧
    cell (tick { Config.hardware with compareGated := true } (withCells (a ++ [(17, 0x01#8)]))).bank 16 = 0x01#8 := by decide

/-- Two banks that differ in A_MS, A_HS, A_DOW, DOW and ICTRL only. -/
theorem witness_AlarmIgnoresOtherCells :
    let b := State.reset.bank
    let b' := (withCells [(8, 0x55#8), (9, 0x55#8), (13, 0x55#8), (5, 0x01#8), (17, 0xFF#8)]).bank
    b ≠ b' ∧ ∀ p ∈ alarmPairs, cell b p.1 = cell b' p.1 ∧ cell b p.2 = cell b' p.2 := by decide

/-- E6: an alarm at second 30, one second before it and at it. -/
theorem witness_SecondsAlarmMatchesOnItsSecond :
    let s := withCells [(2, 0x29#8), (10, 0x30#8), (11, 0xC0#8), (12, 0xC0#8), (14, 0xC0#8), (15, 0xC0#8)]
    s.life = .running ∧ (cell s.bank 16).getLsbD 0 = false ∧ wild Config.hardware (cell s.bank 10) = false ∧
    wild Config.hardware (cell s.bank 11) = true ∧ wild Config.hardware (cell s.bank 12) = true ∧
    wild Config.hardware (cell s.bank 14) = true ∧ wild Config.hardware (cell s.bank 15) = true ∧ endsYear s.bank = false ∧
    cellsAfter (exec .tick s) [16] = some [0x01#8] := by decide

theorem witness_codec : 99 ≤ 99 ∧ isBCD 0x99#8 = true ∧ isBCD 0x00#8 = true ∧ nibbleCarry 0x99#8 = 0x00#8 := by decide

theorem witness_CommandCellsStayZero :
    commandInvariant State.reset ∧ (∃ t, step (pending [0x32CD#16] State.reset) = .next t) ∧ State.reset.life = .running ∧
    (18#5).toNat ∈ [18, 19, 21] ∧ (19#5).toNat ∈ [18, 19, 21] ∧ (21#5).toNat ∈ [18, 19, 21] :=
  ⟨fun _ => by decide, ⟨_, rfl⟩, by decide, by decide, by decide, by decide⟩

/-- A GO and a store to an alarm cell: both sides of the boundary cells 7, 8 and 13, 14, 15. -/
theorem witness_OnlyClockStoresBreakWellFormedness :
    let s := pending [0x3500#16] State.reset
    bankWellFormed Config.hardware s.bank = true ∧
    (∀ t rest, s.input = t :: rest → setsClockCell (decode t.word) = false ∧ HostTime.valid Config.hardware t.host = true) ∧
    (∃ s', step s = .next s') ∧
    [1#4, 2#4, 7#4, 8#4, 13#4, 14#4, 15#4].map (fun a => setsClockCell (.wrStoreClock a 0x00#8)) =
      [false, true, true, false, false, true, false] := by
  refine ⟨by decide, ?_, ⟨_, rfl⟩, by decide⟩
  intro t rest h
  have ht : t = ⟨0x3500#16, at' 18 43 27⟩ := by
    simp only [pending, List.map_cons, List.map_nil] at h
    exact (List.cons.inj h).1.symm
  subst ht
  decide

/-- A TICK that sets a status bit, and a WR 16 that clears one. -/
theorem witness_StatusChangesOnlyAsTheRuleSays :
    (∃ t, step (pending [0x4000#16] (withCells [(17, 0x04#8)])) = .next t ∧
      cell t.bank 16 ≠ cell (pending [0x4000#16] (withCells [(17, 0x04#8)])).bank 16) ∧
    ∃ t, step (pending [0x30FF#16] (withCells [(16, 0x0C#8)])) = .next t ∧
      cell t.bank 16 ≠ cell (pending [0x30FF#16] (withCells [(16, 0x0C#8)])).bank 16 :=
  ⟨⟨_, rfl, by decide⟩, ⟨_, rfl, by decide⟩⟩

theorem witness_OnlyTicksEmitEvents :
    (∃ t, step (pending [0x4000#16] (withCells [(17, 0x04#8)])) = .next t) ∧
    ∃ t, step (pending [0x0300#16] State.reset) = .next t ∧ t.answers = [0x43#8] :=
  ⟨⟨_, rfl⟩, ⟨_, rfl, by decide⟩⟩

/-- Construction with three TICKs behind it. -/
theorem witness_FreshCoreStaysSilent :
    let s := ticks 3 (State.initial zeroBank)
    s.life ≠ .closed ∧ HostTime.valid Config.hardware s.hostTime = true ∧
    ∃ s₁, exec .reset s = .next s₁ ∧ NextAreTicks 3 s₁ :=
  ⟨by decide, by decide, ⟨_, rfl, nextAreTicks_ticks 3 (State.initial zeroBank)⟩⟩

/-- A TICK and a WR.GO from the reset state, and which plain stores end the quiet. -/
theorem witness_QuietCoreStaysQuiet :
    let s := pending [0x4000#16, 0x3500#16] State.reset
    Quiet s ∧ s.life = .running ∧
    (∀ t rest, s.input = t :: rest → ¬endsQuiet (decode t.word) ∧ HostTime.valid Config.hardware t.host = true) ∧
    (∃ s', step s = .next s') ∧ ¬endsQuiet (.wrStoreClock 13#4 0xC0#8) ∧ endsQuiet (.wrStoreClock 14#4 0xC0#8) ∧
    endsQuiet (.wrStoreClock 15#4 0xC0#8) ∧ endsQuiet (.wrStoreIctrl 0x04#8) ∧ ¬endsQuiet (.wrStoreStatus 0x04#8) := by
  refine ⟨⟨by decide, by decide, by decide, by decide⟩, rfl, ?_, ⟨_, rfl⟩, ?_, ?_, ?_, ?_, ?_⟩
  · intro t rest h
    have ht : t = ⟨0x4000#16, at' 18 43 27⟩ := by
      simp only [pending, List.map_cons, List.map_nil] at h
      exact (List.cons.inj h).1.symm
    have hd : decode t.word = .tick := by subst ht; decide
    refine ⟨?_, by subst ht; decide⟩
    rw [hd]
    simp [endsQuiet, setsClockCell, storeTarget]
  · simp [endsQuiet, setsClockCell, storeTarget, clockIndex]
  · exact .inl (by decide)
  · exact .inr ⟨15, 0xC0#8, rfl, .inl rfl⟩
  · exact .inr ⟨17, 0x04#8, rfl, .inr rfl⟩
  · simp [endsQuiet, setsClockCell, storeTarget]

end Sys2Proof.Tests
end

section
/-! The indices outside the bank (10_state.md R44). -/

namespace Sys2Proof

open Sys2Proof.Machine

/-- An RD names a cell of the bank: its index is the 5-bit field `A` (R73). -/
theorem rdIndex_lt (a : BitVec 5) : rdIndex a < 32 := a.isLt

/-- Settles O18: the bank's two laws for an index outside it, and the width of `A` for a decoded RD. -/
theorem outsideTheBankIsSentinel : Obligations.OutsideTheBankIsSentinel := by
  unfold Obligations.OutsideTheBankIsSentinel
  constructor
  · intro b i v hi
    exact ⟨cell_outside b hi, store_outside b v hi⟩
  · intro _ a _
    exact rdIndex_lt a

end Sys2Proof
end

section
/-! The words of RD and WR as their three fields (30_encoding.md R71, R73, R74). -/

namespace Sys2Proof

open Sys2Proof.Claims

/-- A word is its three fields, each shifted to its place. -/
theorem mkWord_eq_or_shiftLeft (o : BitVec 3) (a : BitVec 5) (d : Byte) :
    mkWord o a d = (o.setWidth 16 <<< 13) ||| (a.setWidth 16 <<< 8) ||| d.setWidth 16 := by
  unfold mkWord
  apply BitVec.eq_of_getLsbD_eq
  intro i hi
  simp only [BitVec.getLsbD_append, BitVec.getLsbD_or, BitVec.getLsbD_shiftLeft, BitVec.getLsbD_setWidth]
  by_cases hd : i < 8
  · have ho : i < 13 := by omega
    simp [hi, hd, ho]
  · have hd' : d.getLsbD i = false := BitVec.getLsbD_of_ge d i (by omega)
    by_cases ha : i < 13
    · have ha' : i - 8 < 5 := by omega
      have hw : i - 8 < 16 := by omega
      simp [hi, hd, hd', ha, ha', hw]
    · have ha' : a.getLsbD (i - 8) = false := BitVec.getLsbD_of_ge a (i - 8) (by omega)
      have hle : ¬i - 8 < 5 := by omega
      have hsub : i - 8 - 5 = i - 13 := by omega
      have hw : i - 13 < 16 := by omega
      simp [hi, hd, hd', ha, ha', hle, hsub, hw]

theorem rdWord_eq_mkWord (a : BitVec 5) : rdWord a = mkWord 0b000#3 a 0x00#8 := by
  simp [rdWord, mkWord_eq_or_shiftLeft]

theorem wrWord_eq_mkWord (a : BitVec 5) (d : Byte) : wrWord a d = mkWord 0b001#3 a d := by
  simp [wrWord, mkWord_eq_or_shiftLeft]

@[simp] theorem decode_rdWord (a : BitVec 5) : decode (rdWord a) = .rd a :=
  (congrArg decode (rdWord_eq_mkWord a)).trans (decode_mkWord _ _ _)

end Sys2Proof
end

section
/-! Reads have no side effects (20_memory.md R57). -/

namespace Sys2Proof

open Sys2Proof.Machine Sys2Proof.Claims

/-- A step over a pending RD word, for a CORE that is RUNNING, answers the stored byte and does nothing else. -/
theorem step_rdWord {s : State} {a : BitVec 5} {h : HostTime} {rest : List Transaction} (hl : s.life = .running)
    (hin : s.input = ⟨rdWord a, h⟩ :: rest) :
    step s = .next (State.answer { s with input := rest, hostTime := h } (s.read (rdIndex a))) := by
  rw [step_cons hin, decode_rdWord, exec_rd]
  exact whenRunning_running hl _

/-- Settles O9: the first RD keeps the bank and `life`, so the second is a step of the same kind with the same byte. -/
theorem readTwiceAnswersTheSame : Obligations.ReadTwiceAnswersTheSame := by
  unfold Obligations.ReadTwiceAnswersTheSame
  intro s a h₁ h₂ rest hl hin
  have first := step_rdWord hl hin
  have second := step_rdWord (s := State.answer { s with input := ⟨rdWord a, h₂⟩ :: rest, hostTime := h₁ }
    (s.read (rdIndex a))) hl rfl
  exact ⟨_, s.read (rdIndex a), (run_succ_of_next 1 first).trans (run_succ_of_next 0 second), rfl, rfl, rfl, rfl⟩

end Sys2Proof
end

section
/-! The host's port window (20_memory.md R51, R52). -/

namespace Sys2Proof

open Sys2Proof.Machine Sys2Proof.Claims

theorem inWindow_eq_true {c : Config} {port : Nat} :
    inWindow c port = true ↔ c.ioBase ≤ port ∧ port < c.ioBase + 32 := by
  simp [inWindow]

theorem inWindow_ioBase_add (c : Config) (k : BitVec 5) : inWindow c (c.ioBase + k.toNat) = true := by
  have hk : k.toNat < 32 := k.isLt
  rw [inWindow_eq_true]
  omega

theorem portIndex_ioBase_add (c : Config) (k : BitVec 5) : portIndex c (c.ioBase + k.toNat) = k := by
  simp [portIndex]

theorem memRead_of_inWindow {c : Config} {port : Nat} (h : inWindow c port = true) :
    memRead c port = some (rdWord (portIndex c port)) := by
  simp [memRead, h, rdWord_eq_mkWord]

theorem memWrite_of_inWindow {c : Config} {port : Nat} (h : inWindow c port = true) (v : Byte) :
    memWrite c port v = some (wrWord (portIndex c port) v) := by
  simp [memWrite, h, wrWord_eq_mkWord]

theorem memRead_of_not_inWindow {c : Config} {port : Nat} (h : ¬inWindow c port = true) : memRead c port = none := by
  simp [memRead, h]

theorem memWrite_of_not_inWindow {c : Config} {port : Nat} (h : ¬inWindow c port = true) (v : Byte) :
    memWrite c port v = none := by
  simp [memWrite, h]

/-- Settles O19: the ports of the window by their offset from `IO_BASE`, the others by the window's two ends. -/
theorem portsMapToIndices : Obligations.PortsMapToIndices := by
  unfold Obligations.PortsMapToIndices
  intro c v
  constructor
  · intro k
    have hin := inWindow_ioBase_add c k
    rw [memRead_of_inWindow hin, memWrite_of_inWindow hin, portIndex_ioBase_add]
    exact ⟨rfl, rfl, rfl⟩
  · intro port hport
    have hout : ¬inWindow c port = true := by
      rw [inWindow_eq_true]
      omega
    exact ⟨memRead_of_not_inWindow hout, memWrite_of_not_inWindow hout v⟩

end Sys2Proof
end

section
/-! The decode table (30_encoding.md R79): each word matches the row of its operation, and no other row. -/

namespace Sys2Proof

open Sys2Proof.Claims

theorem selects_iff {r : OpcodeRow} {w : Word} : r.selects w = true ↔ w &&& r.mask = r.pattern := by
  simp [OpcodeRow.selects]

/-- The 15 rows of R79, as `rowOf` gives them. -/
def decodeTable : List OpcodeRow :=
  [rowOf (.rd 0#5), rowOf (.wrStoreClock 0#4 0#8), rowOf .wrIstat, rowOf (.wrStoreIctrl 0#8), rowOf .wrRstcnt,
    rowOf .wrRstram, rowOf (.wrStoreStatus 0#8), rowOf .wrGo, rowOf (.wrStoreStby 0#1 0#8), rowOf (.wrStoreTest 0#3 0#8),
    rowOf .tick, rowOf .reset, rowOf .close, rowOf .reserved5, rowOf .reserved67]

theorem rowOf_mem_decodeTable (i : Instr) : rowOf i ∈ decodeTable := by
  cases i <;> simp [decodeTable, rowOf]

/-- Two different rows of the table ask for different bits at some place that both look at. -/
theorem decodeTable_conflict :
    ∀ r ∈ decodeTable, ∀ q ∈ decodeTable, r.pattern &&& q.mask = q.pattern &&& r.mask → r = q := by decide

/-- The rows are pairwise disjoint. -/
theorem rowOf_eq_of_selects {w : Word} {i j : Instr} (hi : (rowOf i).selects w = true) (hj : (rowOf j).selects w = true) :
    rowOf i = rowOf j := by
  rw [selects_iff] at hi hj
  apply decodeTable_conflict _ (rowOf_mem_decodeTable i) _ (rowOf_mem_decodeTable j)
  calc (rowOf i).pattern &&& (rowOf j).mask
      = w &&& (rowOf i).mask &&& (rowOf j).mask := by rw [hi]
    _ = w &&& (rowOf j).mask &&& (rowOf i).mask := by ac_rfl
    _ = (rowOf j).pattern &&& (rowOf i).mask := by rw [hj]

theorem decodeTable_mask_low_zero :
    ∀ r ∈ decodeTable, r.mask = (r.mask.extractLsb' 8 8 ++ 0#8 : BitVec (8 + 8)) := by decide

/-- No row looks at the data byte. -/
theorem selects_mkWord_data (i : Instr) (o : BitVec 3) (a : BitVec 5) (d : Byte) :
    (rowOf i).selects (mkWord o a d) = (rowOf i).selects (mkWord o a 0#8) := by
  have hmask := decodeTable_mask_low_zero _ (rowOf_mem_decodeTable i)
  unfold OpcodeRow.selects
  rw [hmask, mkWord_and_top]

theorem rowOf_decodeWr_data (a : BitVec 5) (d : Byte) : rowOf (decodeWr a d) = rowOf (decodeWr a 0#8) := by
  unfold decodeWr
  repeat' split
  all_goals rfl

/-- `OP` and `A` alone choose the row of a word's operation (R72, R74). -/
theorem rowOf_decode_mkWord_data (o : BitVec 3) (a : BitVec 5) (d : Byte) :
    rowOf (decode (mkWord o a d)) = rowOf (decode (mkWord o a 0#8)) := by
  rw [decode_mkWord, decode_mkWord]
  split
  case h_2 => exact rowOf_decodeWr_data a d
  all_goals rfl

theorem selects_rowOf_decode_mkWord_zero :
    ∀ (o : BitVec 3) (a : BitVec 5), (rowOf (decode (mkWord o a 0#8))).selects (mkWord o a 0#8) = true := by decide

/-- The rows cover all words: a word matches the row of the operation that it decodes to. The data byte decides neither the row
nor the match, so the 256 pairs of `OP` and `A` are all there is to look at. -/
theorem selects_rowOf_decode (w : Word) : (rowOf (decode w)).selects w = true := by
  rw [← mkWord_fields w, rowOf_decode_mkWord_data, selects_mkWord_data]
  exact selects_rowOf_decode_mkWord_zero _ _

/-- A word matches the row of an operation exactly when it decodes to that row. -/
theorem and_mask_eq_pattern_iff (w : Word) (i : Instr) :
    w &&& (rowOf i).mask = (rowOf i).pattern ↔ rowOf (decode w) = rowOf i := by
  rw [← selects_iff]
  constructor
  · exact rowOf_eq_of_selects (selects_rowOf_decode w)
  · intro h
    rw [← h]
    exact selects_rowOf_decode w

/-- A WR word's operation is chosen by its index (R74). -/
@[simp] theorem decode_wrWord (a : BitVec 5) (d : Byte) : decode (wrWord a d) = decodeWr a d :=
  (congrArg decode (wrWord_eq_mkWord a d)).trans (decode_mkWord _ _ _)

/-- A WR operation that stores has the word's own index and data byte for operands. -/
theorem storeTarget_decodeWr {a : BitVec 5} {d v : Byte} {i : Nat} (h : storeTarget (decodeWr a d) = some (i, v)) :
    i = a.toNat ∧ v = d := by
  unfold decodeWr at h
  split at h
  case h_9 =>
    have ha : a.toNat < 32 := a.isLt
    simp only [imp_false] at *
    split at h
    all_goals
      simp only [storeTarget, Option.some.injEq, Prod.mk.injEq, BitVec.extractLsb'_toNat] at h
      obtain ⟨rfl, rfl⟩ := h
      exact ⟨by omega, rfl⟩
  all_goals simp_all [storeTarget]

/-- Settles O3: the rows cover all words and are disjoint, so a word matches a row exactly when its operation has that row, and
each row is that of one constructor. -/
theorem wordsDecodeByTheTable : Obligations.WordsDecodeByTheTable := by
  unfold Obligations.WordsDecodeByTheTable
  refine ⟨fun w => ?_, decode_rdWord, fun a d i v h => ?_⟩
  · have row := and_mask_eq_pattern_iff w
    refine ⟨(row (.rd 0#5)).trans ?_, (row (.wrStoreClock 0#4 0#8)).trans ?_, (row .wrIstat).trans ?_,
      (row (.wrStoreIctrl 0#8)).trans ?_, (row .wrRstcnt).trans ?_, (row .wrRstram).trans ?_,
      (row (.wrStoreStatus 0#8)).trans ?_, (row .wrGo).trans ?_, (row (.wrStoreStby 0#1 0#8)).trans ?_,
      (row (.wrStoreTest 0#3 0#8)).trans ?_, (row .tick).trans ?_, (row .reset).trans ?_, (row .close).trans ?_,
      (row .reserved5).trans ?_, (row .reserved67).trans ?_⟩
    all_goals cases decode w <;> simp [rowOf]
  · rw [decode_wrWord] at h
    exact storeTarget_decodeWr h

end Sys2Proof
end

section
/-! What an operation on the bank leaves unchanged, in the terms of the statements. -/

namespace Sys2Proof

open Sys2Proof.Machine Sys2Proof.Claims

theorem onlyBankChanged_withBank (s : State) (b : Bank) : OnlyBankChanged s (s.withBank b) := ⟨rfl, rfl, rfl, rfl, rfl⟩

theorem cellsKeptExcept_store (b : Bank) (i : Nat) (v : Byte) : CellsKeptExcept [i] b (store b i v) := by
  intro j _ hj
  have hne : i ≠ j := fun h => hj (by simp [h])
  exact cell_store_ne b v hne

end Sys2Proof
end

section
/-! The read port and the status port (42_port_interface.md R121, R125, R126). -/

namespace Sys2Proof

open Sys2Proof.Machine Sys2Proof.Claims

/-- Settles O8: RUNNING admits the RD, whose next state is the one that `exec_rd` names. -/
theorem readAnswersTheStoredByte : Obligations.ReadAnswersTheStoredByte := by
  unfold Obligations.ReadAnswersTheStoredByte
  intro s a hl
  exact (exec_rd s a).trans (whenRunning_running hl _)

theorem decode_wrWord_istat (d : Byte) : decode (wrWord 16#5 d) = .wrIstat := decode_wrWord 16#5 d

theorem exec_wrIstat_running {s : State} (hl : s.life = .running) : exec .wrIstat s = .next (s.write ISTAT 0x00#8) :=
  (exec_wrIstat s).trans (whenRunning_running hl _)

/-- Settles O12: the index alone chooses the operation, which is one store of 0 to cell 16. -/
theorem statusWriteClearsStatus : Obligations.StatusWriteClearsStatus := by
  unfold Obligations.StatusWriteClearsStatus
  refine ⟨decode_wrWord_istat, fun s hl => ⟨_, exec_wrIstat_running hl, ?_, ?_, ?_⟩⟩
  · exact cell_store_same s.bank _ (by decide)
  · exact cellsKeptExcept_store s.bank ISTAT _
  · exact onlyBankChanged_withBank s _

/-- A step over a pending WR word of index 16, for a CORE that is RUNNING, clears the status whatever the word's data byte. -/
theorem step_wrWord_istat {s : State} {d : Byte} {h : HostTime} {rest : List Transaction} (hl : s.life = .running)
    (hin : s.input = ⟨wrWord 16#5 d, h⟩ :: rest) :
    step s = .next (State.write { s with input := rest, hostTime := h } ISTAT 0x00#8) := by
  rw [step_cons hin, decode_wrWord_istat]
  exact exec_wrIstat_running hl

/-- Settles O13: the WR keeps `life`, so the RD runs, and the byte it answers is the 0 just stored. -/
theorem statusReadsBackZero : Obligations.StatusReadsBackZero := by
  unfold Obligations.StatusReadsBackZero
  intro s d h₁ h₂ rest hl hin
  have clear := step_wrWord_istat hl hin
  have read := step_rdWord (s := State.write { s with input := ⟨rdWord 16#5, h₂⟩ :: rest, hostTime := h₁ } ISTAT 0x00#8)
    hl rfl
  have zero : cell (store s.bank ISTAT 0x00#8) ISTAT = 0x00#8 := cell_store_same s.bank _ (by decide)
  exact ⟨_, (run_succ_of_next 1 clear).trans (run_succ_of_next 0 read), congrArg (· :: s.answers) zero⟩

end Sys2Proof
end

section
/-! The clear and Load of RESET and WR 19 (42_port_interface.md R128, R129; 70_reset_and_hazards.md R270). -/

namespace Sys2Proof

open Sys2Proof.Machine Sys2Proof.Claims

/-- The codec reduces its number modulo 100 itself (41_bcd_codec.md R101). -/
@[simp] theorem toBCD_emod (n : Int) : toBCD (n % 100) = toBCD n := by
  simp [toBCD]

/-- A cell that no Load writes is zero after the clear. -/
theorem cell_clearAndLoad_other (h : HostTime) {i : Nat} (h8 : 8 ≤ i) (h32 : i < 32) (h14 : i ≠ 14) :
    cell (clearAndLoad Config.hardware h) i = 0x00#8 := by
  unfold clearAndLoad
  rw [cell_load]
  split
  case h_10 => exact cell_zeroBank h32
  all_goals omega

theorem resetTable_clearAndLoad (h : HostTime) : ResetTable h (clearAndLoad Config.hardware h) := by
  unfold ResetTable
  rw [toBCD_emod]
  exact ⟨cell_load _ _ 0, cell_load _ _ 1, cell_load _ _ 2, cell_load _ _ 3, cell_load _ _ 4, cell_load _ _ 5,
    cell_load _ _ 6, cell_load _ _ 7, cell_load _ _ 14, fun _ h8 h32 h14 => cell_clearAndLoad_other h h8 h32 h14⟩

theorem withLife_eq_self {s : State} {l : Life} (h : s.life = l) : s.withLife l = s := by
  subst h
  rfl

theorem decode_wrWord_rstram (d : Byte) : decode (wrWord 19#5 d) = .wrRstram := decode_wrWord 19#5 d

theorem exec_wrRstram_running {s : State} (hl : s.life = .running) :
    exec .wrRstram s = .next (s.withBank (clearAndLoad Config.hardware s.hostTime)) :=
  (exec_wrRstram s).trans (whenRunning_running hl _)

/-- RESET of a CORE that is RUNNING already changes the bank only. -/
theorem exec_reset_running {s : State} (hl : s.life = .running) :
    exec .reset s = .next (s.withBank (clearAndLoad Config.hardware s.hostTime)) := by
  have hopen : s.life ≠ .closed := by simp [hl]
  rw [exec_reset, unlessClosed_open hopen, withLife_eq_self (by simpa using hl)]

/-- Settles O15: WR 19 and RESET put the same bank, cleared and Loaded, into a state that is RUNNING already. -/
theorem ramResetEqualsReset : Obligations.RamResetEqualsReset := by
  unfold Obligations.RamResetEqualsReset
  refine ⟨decode_wrWord_rstram, fun s hl => ⟨_, exec_wrRstram_running hl, ?_, ?_, exec_reset_running hl⟩⟩
  · exact resetTable_clearAndLoad s.hostTime
  · exact onlyBankChanged_withBank s _

end Sys2Proof
end

section
/-! The alarm compare reads the ten cells of its five pairs only (44_alarm_matcher.md R190, R193). -/

namespace Sys2Proof

open Sys2Proof.Machine Sys2Proof.Claims

/-- A field's match is a function of its live cell and its alarm cell. -/
theorem fieldMatch_congr (c : Config) {b b' : Bank} {l a : Nat} (hl : cell b l = cell b' l) (ha : cell b a = cell b' a) :
    fieldMatch c b l a = fieldMatch c b' l a := by
  simp only [fieldMatch, hl, ha]

/-- The matcher, for every configuration, over the statements' own list of pairs. -/
theorem alarmMatch_eq_true {c : Config} {b : Bank} :
    alarmMatch c b = true ↔ ∀ p ∈ alarmPairs, fieldMatch c b p.1 p.2 = true := by
  simp [alarmMatch, alarmPairs, SEC, A_SEC, MIN, A_MIN, HR, A_HR, DOM, A_DOM, MON, A_MON, and_assoc]

/-- Settles O45: the matcher is made of the field matches of the five pairs, and the banks agree on both cells of each. -/
theorem alarmIgnoresOtherCells : Obligations.AlarmIgnoresOtherCells := by
  unfold Obligations.AlarmIgnoresOtherCells
  intro c b b' agree
  rw [Bool.eq_iff_iff, alarmMatch_eq_true, alarmMatch_eq_true]
  refine forall₂_congr fun p hp => ?_
  obtain ⟨hlive, halarm⟩ := agree p hp
  rw [fieldMatch_congr c hlive halarm]

end Sys2Proof
end

section
/-! Which operation a WR index selects (30_encoding.md R74), and the encoder's words decoded back (R71, R75). -/

namespace Sys2Proof

open Sys2Proof.Machine Sys2Proof.Claims

/-- The sub-decode by index: the four command indices, and the plain store of every other. -/
theorem decodeWr_cases (a : BitVec 5) (d : Byte) :
    (a.toNat = 16 ∧ decodeWr a d = .wrIstat) ∨ (a.toNat = 18 ∧ decodeWr a d = .wrRstcnt) ∨
    (a.toNat = 19 ∧ decodeWr a d = .wrRstram) ∨ (a.toNat = 21 ∧ decodeWr a d = .wrGo) ∨
    (a.toNat ∉ [16, 18, 19, 21] ∧ storeTarget (decodeWr a d) = some (a.toNat, d)) := by
  have ha : a.toNat < 32 := a.isLt
  unfold decodeWr
  split
  case h_9 =>
    simp only [imp_false] at *
    split
    all_goals
      simp [storeTarget]
      omega
  all_goals simp_all [storeTarget]

theorem decodeWr_of_lt {a : BitVec 5} (h : a.toNat < 16) (d : Byte) :
    decodeWr a d = .wrStoreClock (a.extractLsb' 0 4) d := by
  unfold decodeWr
  split
  case h_9 => rw [if_pos h]
  all_goals omega

theorem decodeWr_of_ge {a : BitVec 5} (h : 24 ≤ a.toNat) (d : Byte) :
    decodeWr a d = .wrStoreTest (a.extractLsb' 0 3) d := by
  unfold decodeWr
  split
  case h_9 => rw [if_neg (by omega)]
  all_goals omega

/-- The indices with a leading 0 are 0 to 15. -/
theorem decodeWr_clock (a : BitVec 4) (d : Byte) : decodeWr (0b0#1 ++ a : BitVec (1 + 4)) d = .wrStoreClock a d := by
  have field : ∀ a : BitVec 4, (0b0#1 ++ a : BitVec (1 + 4)).toNat < 16 ∧
      (0b0#1 ++ a : BitVec (1 + 4)).extractLsb' 0 4 = a := by decide
  obtain ⟨hlt, hlow⟩ := field a
  rw [decodeWr_of_lt hlt, hlow]

/-- The indices with leading 11 are 24 to 31. -/
theorem decodeWr_test (a : BitVec 3) (d : Byte) : decodeWr (0b11#2 ++ a : BitVec (2 + 3)) d = .wrStoreTest a d := by
  have field : ∀ a : BitVec 3, 24 ≤ (0b11#2 ++ a : BitVec (2 + 3)).toNat ∧
      (0b11#2 ++ a : BitVec (2 + 3)).extractLsb' 0 3 = a := by decide
  obtain ⟨hge, hlow⟩ := field a
  rw [decodeWr_of_ge hge, hlow]

/-- The indices with leading 1011 are 22 and 23. -/
theorem decodeWr_stby (a : BitVec 1) (d : Byte) : decodeWr (0b1011#4 ++ a : BitVec (4 + 1)) d = .wrStoreStby a d := by
  obtain rfl | rfl : a = 0#1 ∨ a = 1#1 := by
    revert a
    decide
  · rfl
  · rfl

/-- A word of `OP` = 001 is decoded by its index and its data. -/
theorem decode_mkWord_wr (a : BitVec 5) (d : Byte) : decode (mkWord 0b001#3 a d) = decodeWr a d := decode_mkWord _ a d

/-- Settles O2: the fields of the canonical word are the ones that the encoder put there; under `OP` = 001 the index selects the
row that the encoder took it from. -/
theorem encodedOperationDecodesBack : Obligations.EncodedOperationDecodesBack := by
  unfold Obligations.EncodedOperationDecodesBack
  intro i
  cases i with
  | rd a => exact decode_mkWord _ a _
  | wrStoreClock a d => exact (decode_mkWord_wr _ d).trans (decodeWr_clock a d)
  | wrStoreStby a d => exact (decode_mkWord_wr _ d).trans (decodeWr_stby a d)
  | wrStoreTest a d => exact (decode_mkWord_wr _ d).trans (decodeWr_test a d)
  | wrStoreIctrl d => exact decode_mkWord_wr 17#5 d
  | wrStoreStatus d => exact decode_mkWord_wr 20#5 d
  | wrIstat | wrRstcnt | wrRstram | wrGo | tick | reset | close | reserved5 | reserved67 => exact decode_mkWord _ _ _

/-- Settles O4: `OP` alone chooses RD, TICK, RESET and CLOSE, and of the other fields only RD's `A` is an operand. -/
theorem ignoredFieldsChangeNothing : Obligations.IgnoredFieldsChangeNothing := by
  unfold Obligations.IgnoredFieldsChangeNothing
  exact ⟨decode_mkWord _, decode_mkWord _, decode_mkWord _, decode_mkWord _, fun _ => rfl, rfl, rfl, rfl⟩

/-- Settles O1: the 25 words are evaluated. -/
theorem decodesTheSpecsVectors : Obligations.DecodesTheSpecsVectors := by
  unfold Obligations.DecodesTheSpecsVectors
  decide

end Sys2Proof
end

section
/-! One step over the transaction stream (30_encoding.md R70, R76). -/

namespace Sys2Proof

open Sys2Proof.Machine Sys2Proof.Claims

/-- Settles O5: `step_cons`, the model's law for a step with a transaction pending. -/
theorem stepRunsTheNextTransaction : Obligations.StepRunsTheNextTransaction := by
  unfold Obligations.StepRunsTheNextTransaction
  intro s t rest hin
  exact step_cons hin

theorem step_of_input_nil {s : State} (h : s.input = []) : step s = .next s := by
  simp [step, takeTransaction_nil h]

/-- Settles O6: there is no transaction to take. -/
theorem nothingPendingNothingHappens : Obligations.NothingPendingNothingHappens := by
  unfold Obligations.NothingPendingNothingHappens
  intro s h
  exact step_of_input_nil h

theorem toNat_opField (w : Word) : (opField w).toNat = w.toNat / 2 ^ 13 := by
  have hw : w.toNat < 2 ^ 16 := w.isLt
  simp only [opField, BitVec.extractLsb'_toNat, Nat.shiftRight_eq_div_pow]
  omega

/-- From 0xA000 on `OP` is at least 101. -/
theorem decode_reserved {w : Word} (h : 0xA000 ≤ w.toNat) : decode w = .reserved5 ∨ decode w = .reserved67 := by
  have hop : 5 ≤ (opField w).toNat := by
    rw [toNat_opField]
    omega
  unfold decode
  split <;> simp_all

/-- Settles O7: both reserved rows are refused by definition, and the words from 0xA000 on decode to one of them. -/
theorem reservedWordsAreRefused : Obligations.ReservedWordsAreRefused := by
  unfold Obligations.ReservedWordsAreRefused
  refine ⟨fun s => ⟨exec_reserved5 s, exec_reserved67 s⟩, fun s t rest hin hw => ?_⟩
  rw [step_cons hin]
  obtain h | h := decode_reserved hw
  · rw [h, exec_reserved5]
  · rw [h, exec_reserved67]

end Sys2Proof
end

section
/-! The BCD codec (41_bcd_codec.md section 4): digits, round trip, order and increment. -/

namespace Sys2Proof

open Sys2Proof.Machine Sys2Proof.Claims

theorem isBCD_eq_true {b : Byte} : isBCD b = true ↔ tens b ≤ 9 ∧ units b ≤ 9 := by
  simp [isBCD]

theorem tens_eq_div (b : Byte) : tens b = b.toNat / 16 := by
  have hb : b.toNat < 256 := b.isLt
  simp only [tens, BitVec.extractLsb'_toNat, Nat.shiftRight_eq_div_pow]
  omega

theorem units_eq_mod (b : Byte) : units b = b.toNat % 16 := by
  simp [units, BitVec.extractLsb'_toNat]

/-- Settles O50: the two digits are the quotient and the remainder of the byte by 16. -/
theorem digitsAreTheNibbles : Obligations.DigitsAreTheNibbles := by
  unfold Obligations.DigitsAreTheNibbles
  intro b
  rw [fromBCD, isBCD_eq_true, tens_eq_div, units_eq_mod]
  exact ⟨rfl, Iff.rfl⟩

theorem fromBCD_toBCD {n : Nat} (h : n ≤ 99) : fromBCD (toBCD n) = n := by
  have key := fromBCD_toBCD_int n
  omega

theorem toBCD_fromBCD {b : Byte} (h : isBCD b = true) : toBCD (fromBCD b) = b := by
  have hlt := fromBCD_lt_of_isBCD h
  exact eq_of_fromBCD_eq (isBCD_toBCD _) h (fromBCD_toBCD (by omega))

/-- Settles O48: the number of a valid byte is below 100, where the reduction of `toBCD` does nothing. -/
theorem codecRoundTrip : Obligations.CodecRoundTrip := by
  unfold Obligations.CodecRoundTrip
  exact ⟨fun _ h => fromBCD_toBCD h, fun _ h => toBCD_fromBCD h⟩

theorem toNat_nibbles {t u : Nat} (ht : t < 16) (hu : u < 16) : (nibbles t u).toNat = 16 * t + u := by
  have h1 := tens_nibbles (u := u) ht
  have h2 := units_nibbles (t := t) hu
  rw [tens_eq_div] at h1
  rw [units_eq_mod] at h2
  omega

/-- Settles O51: the reduced number lies in 0-99, so its two digits fit the nibbles. -/
theorem encodingReducesModHundred : Obligations.EncodingReducesModHundred := by
  unfold Obligations.EncodingReducesModHundred
  intro n
  refine ⟨isBCD_toBCD n, ?_⟩
  rw [toBCD, toNat_nibbles (by omega) (by omega)]
  omega

/-- Settles O52: both orders are the lexicographic order of the two digits. -/
theorem byteOrderIsNumberOrder : Obligations.ByteOrderIsNumberOrder := by
  unfold Obligations.ByteOrderIsNumberOrder
  intro a b ha hb
  rw [isBCD_eq_true, tens_eq_div, units_eq_mod] at ha hb
  simp only [fromBCD, tens_eq_div, units_eq_mod]
  omega

theorem nibbleCarry_eq_incBCD : ∀ b : Byte, isBCD b = true → incBCD b 1 = nibbleCarry b := by decide

/-- Settles O49: the circuit is compared with the increment on the valid bytes; the range of the result is that of `toBCD`. -/
theorem incrementIsNibbleCarry : Obligations.IncrementIsNibbleCarry := by
  unfold Obligations.IncrementIsNibbleCarry
  exact ⟨nibbleCarry_eq_incBCD, isBCD_incBCD⟩

/-- Increments in a row add up, on the decoded numbers. -/
theorem iterate_incBCD {b : Byte} (h : isBCD b = true) (k : Nat) :
    (fun b => incBCD b 1)^[k] b = toBCD (((fromBCD b + k) % 100 : Nat) : Int) := by
  have hlt := fromBCD_lt_of_isBCD h
  induction k with
  | zero =>
    have hmod : (fromBCD b + 0) % 100 = fromBCD b := by omega
    rw [Function.iterate_zero, id_eq, hmod, toBCD_fromBCD h]
  | succ k ih =>
    have hprev : fromBCD (toBCD (((fromBCD b + k) % 100 : Nat) : Int)) = (fromBCD b + k) % 100 := fromBCD_toBCD (by omega)
    have hnext : ((fromBCD b + k) % 100 + 1) % 100 = (fromBCD b + (k + 1)) % 100 := by omega
    rw [Function.iterate_succ_apply', ih, incBCD, hprev, hnext]

/-- Settles O53: `iterate_incBCD` from 0x00, and with 100 increments, which add nothing modulo 100. -/
theorem incrementCyclesAtHundred : Obligations.IncrementCyclesAtHundred := by
  unfold Obligations.IncrementCyclesAtHundred
  constructor
  · intro k
    have hzero : fromBCD 0x00#8 = 0 := by decide
    rw [iterate_incBCD (by decide), hzero, Nat.zero_add]
  · intro b h
    have hlt := fromBCD_lt_of_isBCD h
    have hmod : (fromBCD b + 100) % 100 = fromBCD b := by omega
    rw [iterate_incBCD h, hmod, toBCD_fromBCD h]

end Sys2Proof
end

section
/-! The alarm fields and their wildcards (44_alarm_matcher.md R190, R191, R194). -/

namespace Sys2Proof

open Sys2Proof.Machine Sys2Proof.Claims

theorem wild_hardware_iff : ∀ a : Byte, wild Config.hardware a = true ↔ 0xC0 ≤ a.toNat := by decide

/-- A wildcard's tens digit is at least 12. -/
theorem isBCD_of_wild {a : Byte} (h : wild Config.hardware a = true) : isBCD a = false := by
  rw [wild_hardware_iff] at h
  rw [← Bool.not_eq_true, isBCD_eq_true, tens_eq_div]
  omega

/-- Settles O46: the mask is looked at byte by byte; the digits decide the rest. -/
theorem wildcardsAreNeverBCD : Obligations.WildcardsAreNeverBCD := by
  unfold Obligations.WildcardsAreNeverBCD
  exact fun a => ⟨wild_hardware_iff a, isBCD_of_wild⟩

/-- The matcher of every configuration with this hardware's mask. -/
theorem alarmMatch_iff {c : Config} (hmask : c.wildcardMask = 0xC0#8) (b : Bank) :
    alarmMatch c b = true ↔ AlarmMatches b := by
  simp only [alarmMatch_eq_true, AlarmMatches, fieldMatch_eq_true, hmask]

/-- Settles O44: the case of this hardware. -/
theorem alarmComparesFiveFields : Obligations.AlarmComparesFiveFields := by
  unfold Obligations.AlarmComparesFiveFields
  exact alarmMatch_iff rfl

end Sys2Proof
end

section
/-! The calendar's tables (43_tick_engine.md R170, 00_scope.md R7). -/

namespace Sys2Proof

open Sys2Proof.Machine Sys2Proof.Claims

theorem dim_other (c : Config) {m : Nat} (y : Nat) (h : m = 0 ∨ 13 ≤ m) : dim c m y = 31 := by
  unfold dim
  split
  case h_13 => rfl
  all_goals omega

/-- Settles O37: the numbered months by the table's own rows, every other number by its last row. -/
theorem daysInMonthTable : Obligations.DaysInMonthTable := by
  unfold Obligations.DaysInMonthTable
  intro c m y
  refine ⟨fun h => ?_, fun h => ?_, fun h => ?_, dim_other c y⟩
  · fin_cases h <;> rfl
  · fin_cases h <;> rfl
  · subst h
    rfl

/-- The century year of 1980-2079 is 2000, a leap year. -/
theorem gregorian_in_range {y : Nat} (h₁ : 1980 ≤ y) (h₂ : y ≤ 2079) : LeapRule.gregorian y = decide (y % 4 = 0) := by
  have key : y % 4 = 0 ∧ y % 100 ≠ 0 ∨ y % 400 = 0 ↔ y % 4 = 0 := by omega
  rw [LeapRule.gregorian, ← Bool.decide_and, ← Bool.decide_or]
  exact decide_eq_decide.mpr key

/-- Settles O38: the two rules part at centuries only, and the one century year here is divisible by 400. -/
theorem gregorianIsDivFourInRange : Obligations.GregorianIsDivFourInRange := by
  unfold Obligations.GregorianIsDivFourInRange
  exact fun _ => gregorian_in_range

end Sys2Proof
end

section
/-! The plain stores and the WR command words (42_port_interface.md R122-R131). -/

namespace Sys2Proof

open Sys2Proof.Machine Sys2Proof.Claims

/-- The statements' name for the target of a plain store is the model's. -/
theorem storeTarget_eq_plainStoreOf (i : Instr) : storeTarget i = plainStoreOf i := by
  cases i <;> rfl

theorem exec_storeTarget_running {s : State} {i : Instr} {n : Nat} {d : Byte} (hl : s.life = .running)
    (h : storeTarget i = some (n, d)) : exec i s = .next (s.write n d) := by
  rw [storeTarget_eq_plainStoreOf] at h
  rw [exec_plainStore h, whenRunning_running hl]

/-- No plain store names a cell outside the bank or one with a write side effect (R123). -/
theorem storeTarget_index {i : Instr} {n : Nat} {d : Byte} (h : storeTarget i = some (n, d)) :
    n < 32 ∧ n ≠ 16 ∧ n ≠ 18 ∧ n ≠ 19 ∧ n ≠ 21 := by
  rw [storeTarget_eq_plainStoreOf] at h
  exact plainStoreOf_index h

/-- Settles O10: every plain store is one `write` of the cell it names. -/
theorem plainStoreStoresVerbatim : Obligations.PlainStoreStoresVerbatim := by
  unfold Obligations.PlainStoreStoresVerbatim
  intro s i n d hl h
  obtain ⟨hn, -⟩ := storeTarget_index h
  exact ⟨_, exec_storeTarget_running hl h, cell_store_same s.bank d hn, cellsKeptExcept_store s.bank n d,
    onlyBankChanged_withBank s _⟩

theorem exec_wrRstcnt_running {s : State} (hl : s.life = .running) :
    exec .wrRstcnt s = .next (s.withBank (store (store s.bank MS 0x00#8) HS 0x00#8)) :=
  (exec_wrRstcnt s).trans (whenRunning_running hl _)

theorem exec_wrGo_running {s : State} (hl : s.life = .running) :
    exec .wrGo s = .next (s.withBank (load Config.hardware s.hostTime s.bank)) :=
  (exec_wrGo s).trans (whenRunning_running hl _)

/-- What WR 18 does to the bank (R127). -/
theorem clearSubSeconds_cells (b : Bank) :
    cell (store (store b MS 0x00#8) HS 0x00#8) 0 = 0x00#8 ∧ cell (store (store b MS 0x00#8) HS 0x00#8) 1 = 0x00#8 ∧
      CellsKeptExcept [0, 1] b (store (store b MS 0x00#8) HS 0x00#8) := by
  refine ⟨by simp, by simp, fun i _ hi => ?_⟩
  have hne : 0 ≠ i ∧ 1 ≠ i := by
    simp at hi
    omega
  rw [cell_store_ne _ _ hne.2, cell_store_ne _ _ hne.1]

theorem decode_wrWord_rstcnt (d : Byte) : decode (wrWord 18#5 d) = .wrRstcnt := decode_wrWord 18#5 d
theorem decode_wrWord_go (d : Byte) : decode (wrWord 21#5 d) = .wrGo := decode_wrWord 21#5 d

/-- Settles O14: the index chooses the operation, which writes the two sub-second cells. -/
theorem resetCountersZeroesSubSeconds : Obligations.ResetCountersZeroesSubSeconds := by
  unfold Obligations.ResetCountersZeroesSubSeconds
  refine ⟨decode_wrWord_rstcnt, fun s hl => ?_⟩
  obtain ⟨h0, h1, kept⟩ := clearSubSeconds_cells s.bank
  exact ⟨_, exec_wrRstcnt_running hl, h0, h1, kept, onlyBankChanged_withBank s _⟩

/-- A Load writes the sub-second, time and date cells and the year only (R130). -/
theorem cellsKeptExcept_load (h : HostTime) (b : Bank) :
    CellsKeptExcept [0, 1, 2, 3, 4, 5, 6, 7, 14] b (load Config.hardware h b) := by
  intro i _ hi
  rw [cell_load]
  split
  case h_10 => rfl
  all_goals simp at hi

/-- Settles O16: `cell_load`, cell by cell. -/
theorem goLoadsTheTimeOnly : Obligations.GoLoadsTheTimeOnly := by
  unfold Obligations.GoLoadsTheTimeOnly
  refine ⟨decode_wrWord_go, fun s hl => ?_⟩
  exact ⟨_, exec_wrGo_running hl, cell_load _ _ 2, cell_load _ _ 3, cell_load _ _ 4, cell_load _ _ 5, cell_load _ _ 6,
    cell_load _ _ 7, cell_load _ _ 0, cell_load _ _ 1, cell_load _ _ 14, cellsKeptExcept_load _ _,
    onlyBankChanged_withBank s _⟩

/-- An operation other than RESET and CLOSE is refused outside RUNNING (45_host_sync_lifecycle.md R225). -/
theorem exec_refused_of_not_running {s : State} {i : Instr} (hl : s.life ≠ .running) (hreset : i ≠ .reset)
    (hclose : i ≠ .close) : ∃ q, exec i s = .refused q := by
  have refuse (s' : State) : ∃ q, whenRunning s s' = .refused q := by
    unfold whenRunning
    cases h : s.life with
    | running => exact absurd h hl
    | uninit => exact ⟨_, rfl⟩
    | closed => exact ⟨_, rfl⟩
  cases i
  case reset => exact absurd rfl hreset
  case close => exact absurd rfl hclose
  case reserved5 => exact ⟨_, exec_reserved5 s⟩
  case reserved67 => exact ⟨_, exec_reserved67 s⟩
  all_goals exact refuse _

theorem running_of_exec_eq_next {s t : State} {i : Instr} (h : exec i s = .next t) (hreset : i ≠ .reset)
    (hclose : i ≠ .close) : s.life = .running := by
  by_contra hl
  obtain ⟨q, hq⟩ := exec_refused_of_not_running hl hreset hclose
  rw [hq] at h
  cases h

/-- No WR index selects RESET or CLOSE. -/
theorem decodeWr_ne_lifecycle (a : BitVec 5) (d : Byte) : decodeWr a d ≠ .reset ∧ decodeWr a d ≠ .close := by
  obtain ⟨-, h⟩ | ⟨-, h⟩ | ⟨-, h⟩ | ⟨-, h⟩ | ⟨-, h⟩ := decodeWr_cases a d
  case inr.inr.inr.inr =>
    constructor <;>
      intro h'
    all_goals simp [h', storeTarget] at h
  all_goals simp [h]

/-- Settles O11: `decodeWr_cases` says which operation the index selects; each has its own lemma for what it leaves. -/
theorem writeDispatchesByIndex : Obligations.WriteDispatchesByIndex := by
  unfold Obligations.WriteDispatchesByIndex
  constructor
  · intro s a d hl
    obtain ⟨hreset, hclose⟩ := decodeWr_ne_lifecycle a d
    rw [decode_wrWord]
    exact exec_refused_of_not_running hl hreset hclose
  · intro s a d hl
    rw [decode_wrWord]
    obtain ⟨ha, h⟩ | ⟨ha, h⟩ | ⟨ha, h⟩ | ⟨ha, h⟩ | ⟨ha, h⟩ := decodeWr_cases a d
    · refine ⟨_, h ▸ exec_wrIstat_running hl, onlyBankChanged_withBank s _, ?_⟩
      simpa [ha] using cellsKeptExcept_store s.bank 16 _
    · refine ⟨_, h ▸ exec_wrRstcnt_running hl, onlyBankChanged_withBank s _, ?_⟩
      simpa [ha] using clearSubSeconds_cells s.bank
    · refine ⟨_, h ▸ exec_wrRstram_running hl, onlyBankChanged_withBank s _, ?_⟩
      simpa [ha] using resetTable_clearAndLoad s.hostTime
    · refine ⟨_, h ▸ exec_wrGo_running hl, onlyBankChanged_withBank s _, ?_⟩
      simp [ha]
    · refine ⟨_, exec_storeTarget_running hl h, onlyBankChanged_withBank s _, ?_⟩
      have same := cell_store_same s.bank d a.isLt
      simp only [List.mem_cons, List.not_mem_nil, or_false, not_or] at ha
      simpa [ha] using ⟨same, cellsKeptExcept_store s.bank a.toNat d⟩

theorem clearSubSeconds_clearSubSeconds (b : Bank) :
    store (store (store (store b MS 0x00#8) HS 0x00#8) MS 0x00#8) HS 0x00#8 = store (store b MS 0x00#8) HS 0x00#8 := by
  apply bank_ext
  intro i _
  simp only [cell_store]
  split <;> simp_all

/-- An operation that, while RUNNING, changes the bank only, and by a function `f` that is idempotent. -/
theorem exec_twice {s t : State} {i : Instr} {f : State → Bank} (hl : s.life = .running)
    (hf : ∀ u : State, u.life = .running → exec i u = .next (u.withBank (f u)))
    (hidem : f (s.withBank (f s)) = f s) (h : exec i s = .next t) : exec i t = .next t := by
  rw [hf s hl, Host.Outcome.next.injEq] at h
  subst h
  rw [hf (s.withBank (f s)) hl, hidem]
  rfl

/-- Settles O17: each WR changes the bank only, by a function of the bank and the host time that is idempotent in the bank. -/
theorem writesAreIdempotent : Obligations.WritesAreIdempotent := by
  unfold Obligations.WritesAreIdempotent
  intro s t i hi h
  have hl : s.life = .running :=
    running_of_exec_eq_next h (by rintro rfl; simp [storeTarget] at hi) (by rintro rfl; simp [storeTarget] at hi)
  obtain ⟨⟨n, d⟩, hstore⟩ | rfl | rfl | rfl | rfl := hi
  · exact exec_twice hl (fun _ hu => exec_storeTarget_running hu hstore) (store_store s.bank n d d) h
  · exact exec_twice hl (fun _ => exec_wrIstat_running) (store_store s.bank ISTAT _ _) h
  · exact exec_twice hl (fun _ => exec_wrRstcnt_running) (clearSubSeconds_clearSubSeconds s.bank) h
  · exact exec_twice (f := fun u => clearAndLoad Config.hardware u.hostTime) hl (fun _ => exec_wrRstram_running) rfl h
  · exact exec_twice (f := fun u => load Config.hardware u.hostTime u.bank) hl (fun _ => exec_wrGo_running)
      (load_load s.hostTime s.bank) h

end Sys2Proof
end

section
/-! A Load of a valid host-time tuple (45_host_sync_lifecycle.md R211) leaves a WF bank (10_state.md R33). -/

namespace Sys2Proof

open Sys2Proof.Machine Sys2Proof.Claims

theorem bcdWithin_iff {lo hi : Nat} {v : Byte} :
    bcdWithin lo hi v = true ↔ isBCD v = true ∧ lo ≤ fromBCD v ∧ fromBCD v ≤ hi := by
  simp [bcdWithin, and_assoc]

theorem bcdWithin_toBCD {lo hi : Nat} {n : Int} (hhi : hi ≤ 99) (h : within lo hi n = true) :
    bcdWithin lo hi (toBCD n) = true := by
  simp only [within, Bool.and_eq_true, decide_eq_true_eq] at h
  have hval := fromBCD_toBCD_int n
  rw [bcdWithin_iff]
  exact ⟨isBCD_toBCD n, by omega, by omega⟩

/-- R33, field by field, for a configuration whose year register is cell 14. -/
structure WellFormedCells (c : Config) (b : Bank) : Prop where
  sec : bcdWithin 0 59 (cell b 2) = true
  min : bcdWithin 0 59 (cell b 3) = true
  hr : bcdWithin 0 23 (cell b 4) = true
  dow : bcdWithin 1 7 (cell b 5) = true
  mon : bcdWithin 1 12 (cell b 7) = true
  year : isBCD (cell b 14) = true
  dom : bcdWithin 1 (dim c (fromBCD (cell b 7)) (fromBCD (cell b 14) + c.epochBase)) (cell b 6) = true

theorem calYear_of_yearIdx {c : Config} (hy : c.yearIdx = some 14) (b : Bank) :
    calYear c b = fromBCD (cell b 14) + c.epochBase := by
  simp [calYear, hy]

theorem bankWellFormed_iff {c : Config} (hy : c.yearIdx = some 14) {b : Bank} :
    bankWellFormed c b = true ↔ WellFormedCells c b := by
  have hyear : yearWellFormed c b = isBCD (cell b 14) := by simp [yearWellFormed, hy]
  rw [bankWellFormed, hyear, calYear_of_yearIdx hy]
  simp only [Bool.and_eq_true, and_assoc]
  constructor
  · rintro ⟨hsec, hmin, hhr, hdow, hmon, hyr, hdom⟩
    exact ⟨hsec, hmin, hhr, hdow, hmon, hyr, hdom⟩
  · rintro ⟨hsec, hmin, hhr, hdow, hmon, hyr, hdom⟩
    exact ⟨hsec, hmin, hhr, hdow, hmon, hyr, hdom⟩

/-- R33 looks at cells 2 to 7 and 14 only. -/
theorem bankWellFormed_congr {b b' : Bank} (h : ∀ i, (2 ≤ i ∧ i ≤ 7) ∨ i = 14 → cell b' i = cell b i) :
    bankWellFormed Config.hardware b' = bankWellFormed Config.hardware b := by
  simp [bankWellFormed, yearWellFormed, calYear, Config.hardware, h]

theorem dim_le (c : Config) (m y : Nat) : dim c m y ≤ 31 := by
  unfold dim
  split
  case h_12 => split <;> omega
  all_goals omega

/-- Whatever was in the bank, a Load of a valid tuple leaves it WF (R211). -/
theorem bankWellFormed_load {h : HostTime} (hv : HostTime.valid Config.hardware h = true) (b : Bank) :
    bankWellFormed Config.hardware (load Config.hardware h b) = true := by
  simp only [HostTime.valid, Bool.and_eq_true, and_assoc] at hv
  obtain ⟨hyear, hmonth, hday, hhour, hminute, hsecond, hweekday, hexists⟩ := hv
  have hmon := bcdWithin_toBCD (lo := 1) (hi := 12) (by decide) hmonth
  have hle := dim_le Config.hardware h.month.toNat h.year.toNat
  simp only [within, Bool.and_eq_true, decide_eq_true_eq] at hyear hmonth hday hweekday hexists
  have hm : fromBCD (toBCD h.month) = h.month.toNat := by
    have hval := fromBCD_toBCD_int h.month
    omega
  have hepoch : Config.hardware.epochBase = 1980 := rfl
  have hy : fromBCD (toBCD (h.year - 1980)) + Config.hardware.epochBase = h.year.toNat := by
    have hval := fromBCD_toBCD_int (h.year - 1980)
    omega
  rw [bankWellFormed_iff rfl]
  constructor <;> simp only [cell_load]
  case sec => exact bcdWithin_toBCD (by decide) hsecond
  case min => exact bcdWithin_toBCD (by decide) hminute
  case hr => exact bcdWithin_toBCD (by decide) hhour
  case dow => exact bcdWithin_toBCD (by decide) (by simp [within]; omega)
  case mon => exact hmon
  case year => exact isBCD_toBCD _
  case dom =>
    rw [hm, hy]
    exact bcdWithin_toBCD (by omega) (by simp [within]; omega)

theorem exec_reset_open {s : State} (h : s.life ≠ .closed) :
    exec .reset s = .next ((s.withBank (clearAndLoad Config.hardware s.hostTime)).withLife .running) :=
  (exec_reset s).trans (unlessClosed_open h _)

/-- Settles O22: the three triggers Load the same sample, two of them after a clear. -/
theorem loadOfValidTupleIsWellFormed : Obligations.LoadOfValidTupleIsWellFormed := by
  unfold Obligations.LoadOfValidTupleIsWellFormed
  intro s hl hv i hi
  obtain rfl | rfl | rfl := hi
  · exact ⟨_, exec_reset_running hl, bankWellFormed_load hv zeroBank⟩
  · exact ⟨_, exec_wrRstram_running hl, bankWellFormed_load hv zeroBank⟩
  · exact ⟨_, exec_wrGo_running hl, bankWellFormed_load hv s.bank⟩

end Sys2Proof
end

section
/-! RESET, CLOSE and what each lifecycle state admits (45_host_sync_lifecycle.md R220-R227, 10_state.md R40). -/

namespace Sys2Proof

open Sys2Proof.Machine Sys2Proof.Claims

theorem unlessClosed_closed {s : State} (h : s.life = .closed) (s' : State) : unlessClosed s s' = .refused .closed := by
  simp [unlessClosed, h]

theorem whenRunning_uninit {s : State} (h : s.life = .uninit) (s' : State) :
    whenRunning s s' = .refused .notConstructed := by
  simp [whenRunning, h]

/-- Settles O20: the bank is the one of `resetTable_clearAndLoad`. -/
theorem resetClearsAndLoads : Obligations.ResetClearsAndLoads := by
  unfold Obligations.ResetClearsAndLoads
  constructor
  · intro s h
    exact ⟨_, exec_reset_open h, rfl, resetTable_clearAndLoad s.hostTime, rfl, rfl, rfl, rfl⟩
  · intro s h
    exact (exec_reset s).trans (unlessClosed_closed h _)

/-- Settles O21: the clear forgets the bank, and the other fields agree. -/
theorem resetStateIsWhatResetLeaves : Obligations.ResetStateIsWhatResetLeaves := by
  unfold Obligations.ResetStateIsWhatResetLeaves
  intro b
  exact exec_reset_open (s := State.initial b) (by simp [State.initial])

theorem commandCellsZero_iff {b : Bank} :
    commandCellsZero b = true ↔ cell b 18 = 0x00#8 ∧ cell b 19 = 0x00#8 ∧ cell b 21 = 0x00#8 := by
  simp [commandCellsZero, and_assoc]

theorem commandCellsZero_clearAndLoad (h : HostTime) : commandCellsZero (clearAndLoad Config.hardware h) = true := by
  rw [commandCellsZero_iff]
  exact ⟨cell_clearAndLoad_other h (by decide) (by decide) (by decide),
    cell_clearAndLoad_other h (by decide) (by decide) (by decide),
    cell_clearAndLoad_other h (by decide) (by decide) (by decide)⟩

/-- Settles O55: the reset state is a clear and a Load, and its sample is valid. -/
theorem resetStateMeetsTheInvariants : Obligations.ResetStateMeetsTheInvariants := by
  unfold Obligations.ResetStateMeetsTheInvariants
  exact ⟨fun _ => commandCellsZero_clearAndLoad _, rfl, bankWellFormed_load (by decide) zeroBank⟩

/-- Settles O23: CLOSE changes `life` alone. -/
theorem closeEndsTheLife : Obligations.CloseEndsTheLife := by
  unfold Obligations.CloseEndsTheLife
  constructor
  · intro s h
    exact (exec_close s).trans (unlessClosed_open h _)
  · intro s h
    exact (exec_close s).trans (unlessClosed_closed h _)

/-- An operation that is not refused has a next state, since the CORE has no faults (60_exceptions.md R240). -/
theorem exec_refused_iff {i : Instr} {s : State} : (∃ q, exec i s = .refused q) ↔ ¬∃ t, exec i s = .next t := by
  cases exec i s with
  | next t => simp
  | fault r => exact (no_fault r).elim
  | refused q => simp

/-- R225: which operations each lifecycle state admits. -/
theorem exec_next_iff {i : Instr} {s : State} (hwf : Instr.wellFormed i = true) :
    (∃ t, exec i s = .next t) ↔ s.life = .running ∨ (s.life = .uninit ∧ (i = .reset ∨ i = .close)) := by
  constructor
  · rintro ⟨t, h⟩
    obtain ⟨rfl, hl, -⟩ | ⟨rfl, hl, -⟩ | ⟨hl, -⟩ := exec_eq_next h
    · cases hlife : s.life <;> simp_all
    · cases hlife : s.life <;> simp_all
    · exact .inl hl
  · rintro (hl | ⟨hl, rfl | rfl⟩)
    · have hopen : s.life ≠ .closed := by simp [hl]
      cases i
      case reset => exact ⟨_, exec_reset_open hopen⟩
      case close => exact ⟨_, unlessClosed_open hopen _⟩
      case reserved5 => cases hwf
      case reserved67 => cases hwf
      all_goals exact ⟨_, whenRunning_running hl _⟩
    · exact ⟨_, exec_reset_open (by simp [hl])⟩
    · exact ⟨_, unlessClosed_open (by simp [hl]) _⟩

/-- Settles O24: `exec_next_iff`, and the refusals are the other cases. -/
theorem lifecycleAdmission : Obligations.LifecycleAdmission := by
  unfold Obligations.LifecycleAdmission
  intro i s hwf
  rw [exec_refused_iff, exec_next_iff hwf]
  exact ⟨Iff.rfl, Iff.rfl⟩

/-- An operation with a next state keeps `life`, or it is RESET or CLOSE, of a CORE that is not CLOSED. -/
theorem exec_life {i : Instr} {s t : State} (h : exec i s = .next t) :
    s.life ≠ .closed ∧
      (t.life = s.life ∨ (i = .reset ∧ t.life = .running) ∨ (i = .close ∧ t.life = .closed)) := by
  obtain ⟨rfl, hl, rfl⟩ | ⟨rfl, hl, rfl⟩ | ⟨hl, heffect⟩ := exec_eq_next h
  · exact ⟨hl, .inr (.inl ⟨rfl, rfl⟩)⟩
  · exact ⟨hl, .inr (.inr ⟨rfl, rfl⟩)⟩
  · refine ⟨by simp [hl], .inl ?_⟩
    obtain ⟨a, -, rfl⟩ | ⟨n, d, -, rfl⟩ | ⟨-, rfl⟩ | ⟨-, rfl⟩ | ⟨-, rfl⟩ | ⟨-, rfl⟩ | ⟨-, rfl⟩ := heffect
    all_goals simp

/-- Settles O25: `exec_life` on the operation of the step; in CLOSED it leaves only the step with nothing pending. -/
theorem lifecycleTransitions : Obligations.LifecycleTransitions := by
  unfold Obligations.LifecycleTransitions
  intro s s' h
  obtain ⟨hnil, rfl⟩ | ⟨t, rest, hin, hexec⟩ := step_eq_next h
  · exact ⟨.inl rfl, fun _ => ⟨hnil, rfl⟩⟩
  · obtain ⟨hopen, hlife⟩ := exec_life hexec
    refine ⟨hlife.imp id fun hchange => ⟨t, rest, hin, hopen, hchange⟩, fun hclosed => absurd hclosed hopen⟩

/-- Settles O26: RESET overwrites the bank, CLOSE is the exception stated, and every other operation is refused. -/
theorem unconstructedBankIsUnobservable : Obligations.UnconstructedBankIsUnobservable := by
  unfold Obligations.UnconstructedBankIsUnobservable
  intro i s b hl
  have hopen : s.life ≠ .closed := by simp [hl]
  have hl' : ({ s with bank := b } : State).life = .uninit := hl
  have refusedAlike (t t' : State) : whenRunning { s with bank := b } t = whenRunning s t' := by
    rw [whenRunning_uninit hl, whenRunning_uninit hl']
  cases i
  case reset => exact .inl ((exec_reset_open hopen).trans (exec_reset_open hopen).symm)
  case close => exact .inr ⟨rfl, unlessClosed_open hopen _, unlessClosed_open hopen _⟩
  case reserved5 => exact .inl rfl
  case reserved67 => exact .inl rfl
  all_goals exact .inl (refusedAlike _ _)

end Sys2Proof
end

section
/-! A wildcard stored in the year slot (44_alarm_matcher.md R199). -/

namespace Sys2Proof

open Sys2Proof.Machine Sys2Proof.Claims

theorem wild_incBCD (b : Byte) (k : Nat) : wild Config.hardware (incBCD b k) = false := by
  by_contra h
  have hnot := isBCD_of_wild (Bool.not_eq_false _ ▸ h)
  rw [isBCD_incBCD] at hnot
  cases hnot

/-- Settles O39: cell 14 holds the wildcard itself, which no BCD byte is, and the increment leaves a BCD byte. -/
theorem wildcardInTheYearSlot : Obligations.WildcardInTheYearSlot := by
  unfold Obligations.WildcardInTheYearSlot
  intro s w hl hw
  have hcell : cell (s.write 14 w).bank 14 = w := cell_store_same s.bank w (by decide)
  refine ⟨s.write 14 w, exec_storeTarget_running hl rfl, ?_, ?_, ?_, isBCD_incBCD _ 1, wild_incBCD _ 1⟩
  · simp only [fieldMatch, hcell, hw, Bool.or_true]
  · rw [calYear_of_yearIdx rfl, hcell]
    rfl
  · rw [hcell]
    exact isBCD_of_wild hw

end Sys2Proof
end

section
/-! What steps 1 to 6 of a TICK leave in the time and date cells (43_tick_engine.md R151-R159), flat, for every configuration with
year register 14 and step 1. -/

namespace Sys2Proof

open Sys2Proof.Machine Sys2Proof.Claims

/-- The month end of the next TICK (R157), for any configuration's calendar. -/
def monthEnds (c : Config) (b : Bank) : Bool :=
  carriesHours b &&
    decide (dim c (fromBCD (cell b 7)) (fromBCD (cell b 14) + c.epochBase) < fromBCD (incBCD (cell b 6) 1))

/-- The year end (R158). -/
def yearEnds (c : Config) (b : Bank) : Bool := monthEnds c b && decide (12 < fromBCD (incBCD (cell b 7) 1))

theorem monthEnds_hardware (b : Bank) : monthEnds Config.hardware b = endsMonth b := rfl
theorem yearEnds_hardware (b : Bank) : yearEnds Config.hardware b = endsYear b := rfl

/-- One field of the cascade: back to its start when it carries out, incremented when a carry comes in, and kept otherwise. -/
def rollField (carryIn carryOut : Bool) (start v : Byte) : Byte :=
  if carryOut then start else if carryIn then incBCD v 1 else v

theorem rollField_always (carryOut : Bool) (start v : Byte) :
    rollField true carryOut start v = if carryOut then start else incBCD v 1 := by
  simp [rollField]

theorem rollField_never (carryIn : Bool) (start v : Byte) :
    rollField carryIn false start v = if carryIn then incBCD v 1 else v := by
  simp [rollField]

/-- What a condition adds to the pending set (60_exceptions.md R243): its bit, if it occurred and is enabled. -/
def recorded (c : Config) (b : Bank) (k : Condition) (occurred : Bool) : Byte :=
  if occurred && enabled c b k then conditionBit c k else 0x00#8

@[simp] theorem recorded_false (c : Config) (b : Bank) (k : Condition) : recorded c b k false = 0x00#8 := rfl

/-- `b'` holds the time and date cells of `b` one second on, and `p` is what the cascade recorded on the way. -/
structure Rolled (c : Config) (b b' : Bank) (p : Byte) : Prop where
  sec : cell b' 2 = rollField true (carriesSeconds b) 0x00#8 (cell b 2)
  min : cell b' 3 = rollField (carriesSeconds b) (carriesMinutes b) 0x00#8 (cell b 3)
  hr : cell b' 4 = rollField (carriesMinutes b) (carriesHours b) 0x00#8 (cell b 4)
  dow : cell b' 5 = rollField (carriesHours b) (wrapsWeek b) 0x01#8 (cell b 5)
  dom : cell b' 6 = rollField (carriesHours b) (monthEnds c b) 0x01#8 (cell b 6)
  mon : cell b' 7 = rollField (monthEnds c b) (yearEnds c b) 0x01#8 (cell b 7)
  year : cell b' 14 = rollField (yearEnds c b) false 0x00#8 (cell b 14)
  pending : p = recorded c b .seconds true ||| recorded c b .minutes (carriesSeconds b) |||
    recorded c b .hours (carriesMinutes b) ||| recorded c b .week (wrapsWeek b) ||| recorded c b .day (carriesHours b) |||
    recorded c b .month (monthEnds c b)

/-- A TICK under way when steps 1 to 3 have carried and the hours have gone back to 0 (R154). -/
def atMidnight (c : Config) (b : Bank) : Cascade :=
  let t := (Cascade.advance c SEC ⟨b, 0x00#8⟩).record c .seconds
  let t := ((t.put SEC 0x00#8).advance c MIN).record c .minutes
  let t := ((t.put MIN 0x00#8).advance c HR).record c .hours
  t.put HR 0x00#8

theorem cell_atMidnight {c : Config} (b : Bank) (i : Nat) :
    cell (atMidnight c b).bank i = if 2 ≤ i ∧ i ≤ 4 then 0x00#8 else cell b i := by
  by_cases h : 2 ≤ i ∧ i ≤ 4
  · obtain ⟨h2, h4⟩ := h
    interval_cases i <;> simp [atMidnight]
  · have hne : 2 ≠ i ∧ 3 ≠ i ∧ 4 ≠ i := by omega
    simp [atMidnight, h, hne]

theorem pending_atMidnight {c : Config} (b : Bank) :
    (atMidnight c b).pending =
      recorded c b .seconds true ||| recorded c b .minutes true ||| recorded c b .hours true := by
  simp [atMidnight, recorded, enabled]

section
variable {c : Config} (hy : c.yearIdx = some 14) (hs : c.tickStep = 1)
include hs

/-- The day-of-week part of step 4 (R155), over a bank that agrees with `b` on the cells it reads. -/
theorem tickWeekday_rolls {b : Bank} {t : Cascade} (hcarry : carriesHours b = true) (h5 : cell t.bank 5 = cell b 5)
    (h17 : cell t.bank 17 = cell b 17) :
    cell (tickWeekday c t).bank 5 = rollField true (wrapsWeek b) 0x01#8 (cell b 5) ∧
      (∀ i, 5 ≠ i → cell (tickWeekday c t).bank i = cell t.bank i) ∧
      (tickWeekday c t).pending = t.pending ||| recorded c b .week (wrapsWeek b) := by
  by_cases hweek : 8 ≤ fromBCD (incBCD (cell b 5) 1)
  · have hwrap : wrapsWeek b = true := by simp [wrapsWeek, hcarry, hweek]
    simp +contextual [tickWeekday, hs, h5, h17, hweek, hwrap, rollField, recorded, enabled]
  · have hwrap : wrapsWeek b = false := by simp [wrapsWeek, hweek]
    simp +contextual [tickWeekday, hs, h5, hweek, hwrap, rollField]

include hy

/-- The day part of step 4 and steps 5 and 6 (R154, R157, R158), over a bank that agrees with `b` on the cells they read. -/
theorem tickDay_rolls {b : Bank} {t : Cascade} (hcarry : carriesHours b = true) (h6 : cell t.bank 6 = cell b 6)
    (h7 : cell t.bank 7 = cell b 7) (h14 : cell t.bank 14 = cell b 14) (h17 : cell t.bank 17 = cell b 17) :
    cell (tickDay c t).bank 6 = rollField true (monthEnds c b) 0x01#8 (cell b 6) ∧
      cell (tickDay c t).bank 7 = rollField (monthEnds c b) (yearEnds c b) 0x01#8 (cell b 7) ∧
      cell (tickDay c t).bank 14 = rollField (yearEnds c b) false 0x00#8 (cell b 14) ∧
      (∀ i, 6 ≠ i → 7 ≠ i → 14 ≠ i → cell (tickDay c t).bank i = cell t.bank i) ∧
      (tickDay c t).pending = t.pending ||| recorded c b .day true ||| recorded c b .month (monthEnds c b) := by
  by_cases hday : dim c (fromBCD (cell b 7)) (fromBCD (cell b 14) + c.epochBase) < fromBCD (incBCD (cell b 6) 1)
  · have hmonth : monthEnds c b = true := by simp [monthEnds, hcarry, hday]
    by_cases hmon : 12 < fromBCD (incBCD (cell b 7) 1)
    · have hyear : yearEnds c b = true := by simp [yearEnds, hmonth, hmon]
      simp +contextual [tickDay, tickStep5, tickStep6, tickYear, hy, hs, calYear_of_yearIdx hy, h6, h7, h14, h17, hday, hmon,
        hmonth, hyear, rollField, recorded, enabled]
    · have hyear : yearEnds c b = false := by simp [yearEnds, hmon]
      simp +contextual [tickDay, tickStep5, tickStep6, hs, calYear_of_yearIdx hy, h6, h7, h14, h17, hday, hmon,
        hmonth, hyear, rollField, recorded, enabled]
  · have hmonth : monthEnds c b = false := by simp [monthEnds, hday]
    have hyear : yearEnds c b = false := by simp [yearEnds, hmonth]
    simp +contextual [tickDay, tickStep5, hs, calYear_of_yearIdx hy, h6, h7, h14, h17, hday,
      hmonth, hyear, rollField, recorded, enabled]

/-- The cascade stops at the first carry that does not come (R159); the hours carry runs the two parts of step 4. -/
theorem rolled_tickRollover (b : Bank) : Rolled c b (tickRollover c b).bank (tickRollover c b).pending := by
  by_cases hsec : 60 ≤ fromBCD (incBCD (cell b 2) 1)
  case neg =>
    have hS : carriesSeconds b = false := by simp [carriesSeconds, hsec]
    constructor <;>
      simp [tickRollover, tickStep2, hs, hsec, hS, carriesMinutes, carriesHours, wrapsWeek, monthEnds, yearEnds, rollField,
        recorded, enabled]
  have hS : carriesSeconds b = true := by simp [carriesSeconds, hsec]
  by_cases hmin : 60 ≤ fromBCD (incBCD (cell b 3) 1)
  case neg =>
    have hM : carriesMinutes b = false := by simp [carriesMinutes, hmin]
    constructor <;>
      simp [tickRollover, tickStep2, tickStep3, hs, hsec, hmin, hS, hM, carriesHours, wrapsWeek, monthEnds, yearEnds,
        rollField, recorded, enabled]
  have hM : carriesMinutes b = true := by simp [carriesMinutes, hS, hmin]
  by_cases hhr : 24 ≤ fromBCD (incBCD (cell b 4) 1)
  case neg =>
    have hH : carriesHours b = false := by simp [carriesHours, hhr]
    constructor <;>
      simp [tickRollover, tickStep2, tickStep3, tickStep4, hs, hsec, hmin, hhr, hS, hM, hH, wrapsWeek, monthEnds, yearEnds,
        rollField, recorded, enabled]
  have hH : carriesHours b = true := by simp [carriesHours, hM, hhr]
  obtain ⟨hdow, hkeptDow, hpDow⟩ := tickWeekday_rolls hs (t := atMidnight c b) hH (cell_atMidnight b 5) (cell_atMidnight b 17)
  obtain ⟨hdom, hmon, hyear, hkeptDay, hpDay⟩ := tickDay_rolls hy hs (t := tickWeekday c (atMidnight c b)) hH
    (by simp [hkeptDow, cell_atMidnight]) (by simp [hkeptDow, cell_atMidnight]) (by simp [hkeptDow, cell_atMidnight])
    (by simp [hkeptDow, cell_atMidnight])
  have hend : tickRollover c b = tickDay c (tickWeekday c (atMidnight c b)) := by
    simp [tickRollover, tickStep2, tickStep3, tickStep4, hs, hsec, hmin, hhr, atMidnight]
  rw [hend]
  constructor
  case dow => rw [hkeptDay 5 (by decide) (by decide) (by decide), hdow, hH]
  case dom => rw [hdom, hH]
  case mon => exact hmon
  case year => exact hyear
  case pending => rw [hpDay, hpDow, pending_atMidnight, hS, hM, hH]
  all_goals simp [hkeptDay, hkeptDow, cell_atMidnight, rollField, hS, hM, hH]

end

end Sys2Proof
end

section
/-! What a whole TICK leaves: the cells of the rollover, its pending set in `ISTAT`, and its events (43_tick_engine.md R160-R168). -/

namespace Sys2Proof

open Sys2Proof.Machine Sys2Proof.Claims

/-- The pending set `P` of a TICK over the bank `b` (10_state.md R41). -/
def tickPending (c : Config) (b : Bank) : Byte := (tickCompare c (tickRollover c b)).pending

/-- How many events a TICK over the bank `b` emits (60_exceptions.md R247). -/
def tickEvents (c : Config) (b : Bank) : Nat :=
  if tickPending c b = 0x00#8 then 0 else if c.irqLine.isSome then 1 else 0

theorem tick_irqEvents_eq_add (c : Config) (s : State) : (tick c s).irqEvents = s.irqEvents + tickEvents c s.bank := by
  rw [tick_irqEvents, tickEvents, tickPending]
  split
  · rfl
  · cases hline : c.irqLine with
    | some k => simp [signalIrq_irqEvents_some c s hline]
    | none => simp [signalIrq_irqEvents_none c s hline]

theorem cell_commitStatus_ne (t : Cascade) {i : Nat} (h : 16 ≠ i) : cell (commitStatus t) i = cell t.bank i := by
  unfold commitStatus
  split
  · rfl
  · exact cell_store_ne _ _ h

/-- An empty pending set, which is not committed, would change nothing. -/
theorem cell_commitStatus_istat (t : Cascade) : cell (commitStatus t) 16 = cell t.bank 16 ||| t.pending := by
  unfold commitStatus
  split
  case isTrue h => simp [h]
  case isFalse => exact cell_store_same _ _ (by decide)

theorem cell_tick_of_ne_istat (c : Config) (s : State) {i : Nat} (h : 16 ≠ i) :
    cell (tick c s).bank i = cell (tickRollover c s.bank).bank i := by
  rw [tick_bank, cell_commitStatus_ne _ h, tickCompare_bank]

/-- A TICK ORs its pending set into `ISTAT` (R168). -/
theorem cell_tick_istat {c : Config} (hy : c.yearIdx = some 14) (s : State) :
    cell (tick c s).bank 16 = cell s.bank 16 ||| tickPending c s.bank := by
  have hfree : ¬cascadeWrites c 16 := by simp [cascadeWrites, hy]
  rw [tick_bank, cell_commitStatus_istat, tickCompare_bank, cell_tickRollover c s.bank hfree, tickPending]

theorem alarmMatch_tick (c : Config) (s : State) :
    alarmMatch c (tick c s).bank = alarmMatch c (tickRollover c s.bank).bank := by
  rw [tick_bank, commitStatus]
  split
  · rw [tickCompare_bank]
  · rw [alarmMatch_store c _ _ (by decide), tickCompare_bank]

/-- Step 7 adds COMPARE (R160). -/
theorem tickPending_eq (c : Config) (b : Bank) :
    tickPending c b = (tickRollover c b).pending |||
      if alarmMatch c (tickRollover c b).bank && (!c.compareGated || enabled c (tickRollover c b).bank .compare)
        then conditionBit c .compare else 0x00#8 := by
  unfold tickPending tickCompare
  cases alarmMatch c (tickRollover c b).bank with
  | false => simp
  | true => cases (!c.compareGated || enabled c (tickRollover c b).bank .compare) <;> simp

end Sys2Proof
end

section
/-! TICK as an operation: the statements about its cells, frame, status and events. -/

namespace Sys2Proof

open Sys2Proof.Machine Sys2Proof.Claims

/-- The rollover looks at five of the parameters: the calendar's, the increment's step and the bit layout. -/
theorem tickRollover_congr {c c' : Config} (hy : c'.yearIdx = c.yearIdx) (hepoch : c'.epochBase = c.epochBase)
    (hleap : c'.isLeap = c.isLeap) (hbits : c'.intBit = c.intBit) (hs : c'.tickStep = c.tickStep) (b : Bank) :
    tickRollover c' b = tickRollover c b := by
  have henabled : enabled c' = enabled c := by
    funext b k
    rw [enabled, enabled, hbits]
  have hpend : Cascade.pend c' = Cascade.pend c := by
    funext k t
    rw [Cascade.pend, Cascade.pend, conditionBit, conditionBit, hbits]
  have hrecord : Cascade.record c' = Cascade.record c := by
    funext k t
    rw [Cascade.record, Cascade.record, henabled, hpend]
  have hadvance : Cascade.advance c' = Cascade.advance c := by
    funext i t
    rw [Cascade.advance, Cascade.advance, hs]
  have hdim : dim c' = dim c := by
    funext m y
    simp only [dim, hleap]
  have hcalYear : calYear c' = calYear c := by
    funext b
    simp only [calYear, hy, hepoch]
  have hyear : tickYear c' = tickYear c := by
    funext t
    simp only [tickYear, hy, hadvance]
  have hstep6 : tickStep6 c' = tickStep6 c := by
    funext t
    rw [tickStep6, tickStep6, hyear]
  have hstep5 : tickStep5 c' = tickStep5 c := by
    funext days t
    rw [tickStep5, tickStep5, hstep6, hrecord, hadvance]
  have hweekday : tickWeekday c' = tickWeekday c := by
    funext t
    rw [tickWeekday, tickWeekday, hrecord, hadvance]
  have hday : tickDay c' = tickDay c := by
    funext t
    rw [tickDay, tickDay, hstep5, hrecord, hadvance, hdim, hcalYear]
  have hstep4 : tickStep4 c' = tickStep4 c := by
    funext t
    rw [tickStep4, tickStep4, hday, hweekday]
  have hstep3 : tickStep3 c' = tickStep3 c := by
    funext t
    rw [tickStep3, tickStep3, hstep4, hrecord, hadvance]
  rw [tickRollover, tickRollover, tickStep2, tickStep2, hstep3, hrecord, hadvance]

theorem tickRollover_irqLine (c : Config) (line : Option Nat) (b : Bank) :
    tickRollover { c with irqLine := line } b = tickRollover c b := tickRollover_congr rfl rfl rfl rfl rfl b

theorem tickRollover_compareGated (c : Config) (g : Bool) (b : Bank) :
    tickRollover { c with compareGated := g } b = tickRollover c b := tickRollover_congr rfl rfl rfl rfl rfl b

/-- The line enters neither the pending set nor the bank. -/
theorem tickPending_irqLine (c : Config) (line : Option Nat) (b : Bank) :
    tickPending { c with irqLine := line } b = tickPending c b := by
  rw [tickPending, tickRollover_irqLine]
  rfl

theorem exec_tick_running {s : State} (hl : s.life = .running) : exec .tick s = .next (tick Config.hardware s) :=
  (exec_tick s).trans (whenRunning_running hl _)

/-- `Rolled` read off the state after a whole TICK. -/
theorem rolled_tick {c : Config} (hy : c.yearIdx = some 14) (hs : c.tickStep = 1) (s : State) :
    Rolled c s.bank (tick c s).bank (tickRollover c s.bank).pending := by
  obtain ⟨hsec, hmin, hhr, hdow, hdom, hmon, hyear, hp⟩ := rolled_tickRollover hy hs s.bank
  constructor
  case pending => exact hp
  all_goals
    rw [cell_tick_of_ne_istat c s (by decide)]
    assumption

/-- Settles O28: `rolled_tick`, field by field. -/
theorem tickAdvancesTheTimeCells : Obligations.TickAdvancesTheTimeCells := by
  unfold Obligations.TickAdvancesTheTimeCells
  intro s hl
  obtain ⟨hsec, hmin, hhr, hdow, hdom, hmon, hyear, -⟩ := rolled_tick (c := Config.hardware) rfl rfl s
  exact ⟨_, exec_tick_running hl, hsec, hmin, hhr, hdow, hdom, hmon, hyear⟩

theorem cascadeWrites_hardware {i : Nat} : cascadeWrites Config.hardware i ↔ (2 ≤ i ∧ i ≤ 7) ∨ i = 14 := by
  simp [cascadeWrites, Config.hardware, eq_comm]

/-- Settles O31: the cells that `cascadeWrites` does not name, and `tick`'s own field lemmas. -/
theorem tickLeavesTheRest : Obligations.TickLeavesTheRest := by
  unfold Obligations.TickLeavesTheRest
  intro s hl
  refine ⟨_, exec_tick_running hl, fun i _ hi => ?_, tick_life _ _, tick_input _ _, tick_hostTime _ _, tick_answers _ _⟩
  simp only [List.mem_cons, List.not_mem_nil, or_false, not_or] at hi
  apply cell_tick
  · rw [cascadeWrites_hardware]
    omega
  · omega

/-- Settles O41: cell 14 is none of the cells that a TICK writes when there is no year register. -/
theorem noYearRegisterNoYear : Obligations.NoYearRegisterNoYear := by
  unfold Obligations.NoYearRegisterNoYear
  intro c s hy
  exact ⟨cell_tick c s (by simp [cascadeWrites, hy]) (by decide), by simp [calYear, hy]⟩

/-- Settles O42: without a line no event is counted, and nothing of the bank's part of a TICK looks at the line. -/
theorem noLineNoEvent : Obligations.NoLineNoEvent := by
  unfold Obligations.NoLineNoEvent
  intro c s line
  constructor
  · rw [tick_irqEvents_eq_add]
    simp [tickEvents]
  · rw [tick_bank, tick_bank, tickRollover_irqLine]
    rfl

/-- The second after 59 minutes 59 seconds carries into the day when the hours are past their end. -/
theorem carriesHours_of_last_second {b : Bank} (h2 : cell b 2 = 0x59#8) (h3 : cell b 3 = 0x59#8)
    (h4 : 24 ≤ fromBCD (incBCD (cell b 4) 1)) : carriesHours b = true := by
  have h60 : 60 ≤ fromBCD (incBCD 0x59#8 1) := by decide
  simp [carriesHours, carriesMinutes, carriesSeconds, h2, h3, h4, h60]

/-- Settles O36: at midnight the day becomes 29, which ends the month exactly when February has 28 days. -/
theorem februaryFollowsTheLeapRule : Obligations.FebruaryFollowsTheLeapRule := by
  unfold Obligations.FebruaryFollowsTheLeapRule
  intro p s h2 h3 h4 h6 h7
  have hnight : carriesHours s.bank = true := carriesHours_of_last_second h2 h3 (by rw [h4]; decide)
  have hend : monthEnds { Config.hardware with isLeap := p } s.bank = !p (fromBCD (cell s.bank 14) + 1980) := by
    have hFeb : fromBCD 0x02#8 = 2 := by decide
    have hday : fromBCD (incBCD 0x28#8 1) = 29 := by decide
    have hepoch : Config.hardware.epochBase = 1980 := rfl
    have hlength : dim { Config.hardware with isLeap := p } 2 (fromBCD (cell s.bank 14) + 1980) =
        if p (fromBCD (cell s.bank 14) + 1980) then 29 else 28 := rfl
    rw [monthEnds, hnight, h6, h7, hFeb, hday, hepoch, hlength]
    cases p (fromBCD (cell s.bank 14) + 1980) <;> rfl
  have hyear : yearEnds { Config.hardware with isLeap := p } s.bank = false := by
    have hMarch : ¬12 < fromBCD (incBCD 0x02#8 1) := by decide
    rw [yearEnds, h7, decide_eq_false hMarch, Bool.and_false]
  obtain ⟨-, -, -, -, hdom, hmon, -, -⟩ := rolled_tick (c := { Config.hardware with isLeap := p }) rfl rfl s
  rw [hend, hnight, h6] at hdom
  rw [hend, hyear, h7] at hmon
  rw [hdom, hmon]
  constructor <;>
    intro hleap
  all_goals
    rw [hleap]
    exact ⟨by decide, by decide⟩

theorem incBCD_one_ne (v : Byte) : incBCD v 1 ≠ v := by
  intro h
  have hval := fromBCD_incBCD v 1
  rw [h] at hval
  omega

/-- A field that starts at 0 changes whenever a carry comes in. -/
theorem rollField_zero_ne {carryOut : Bool} {v : Byte} (h : carryOut = true → 60 ≤ fromBCD (incBCD v 1)) :
    rollField true carryOut 0x00#8 v ≠ v := by
  rw [rollField_always]
  split
  case isTrue hout =>
    rintro rfl
    exact absurd (h hout) (by decide)
  case isFalse => exact incBCD_one_ne v

/-- Settles O40: the tests compare decoded numbers, so the values out of range carry; May has 31 days. -/
theorem outOfRangeCellsStillCarry : Obligations.OutOfRangeCellsStillCarry := by
  unfold Obligations.OutOfRangeCellsStillCarry
  intro s hl
  obtain ⟨hsec, hmin, hhr, -, hdom, -, -, -⟩ := rolled_tick (c := Config.hardware) rfl rfl s
  constructor
  · intro h2
    have hcarry : carriesSeconds s.bank = true := by
      obtain h2 | h2 := h2 <;> rw [carriesSeconds, h2] <;> decide
    refine ⟨_, exec_tick_running hl, ?_, hcarry, ?_⟩
    · rw [hsec, hcarry]
      rfl
    · rw [hmin, hcarry]
      apply rollField_zero_ne
      simp [carriesMinutes]
  · intro h2 h3 h4 h6 h7
    have hnight : carriesHours s.bank = true := carriesHours_of_last_second h2 h3 (by rw [h4]; decide)
    have hmonth : monthEnds Config.hardware s.bank = false := by
      have hMay : fromBCD 0x05#8 = 5 := by decide
      have hday : fromBCD (incBCD 0x14#8 1) = 15 := by decide
      simp [monthEnds, h6, h7, hMay, hday, dim]
    refine ⟨_, exec_tick_running hl, ?_, ?_⟩
    · rw [hhr, hnight]
      rfl
    · rw [hdom, hnight, hmonth, h6]
      decide

end Sys2Proof
end

section
/-! The status bits and the event of a TICK (60_exceptions.md R241-R247). -/

namespace Sys2Proof

open Sys2Proof.Machine Sys2Proof.Claims

theorem getLsbD_one_shiftLeft {i n : Nat} (hi : i < 8) (hn : n < 8) : (0x01#8 <<< i).getLsbD n = decide (n = i) := by
  have key : ∀ i n : Fin 8, (0x01#8 <<< i.val).getLsbD n.val = decide (n.val = i.val) := by decide
  exact key ⟨i, hi⟩ ⟨n, hn⟩

theorem getLsbD_recorded (b : Bank) (k : Condition) (occurred : Bool) {n : Nat} (hn : n < 8) :
    (recorded Config.hardware b k occurred).getLsbD n =
      (occurred && (cell b 17).getLsbD n && decide (n = (Config.defaultIntBit k).val)) := by
  have hbit : (Config.defaultIntBit k).val < 8 := (Config.defaultIntBit k).isLt
  have henabled : enabled Config.hardware b k = (cell b 17).getLsbD (Config.defaultIntBit k).val := rfl
  have hmask : (conditionBit Config.hardware k).getLsbD n = decide (n = (Config.defaultIntBit k).val) :=
    getLsbD_one_shiftLeft hbit hn
  rw [recorded, henabled]
  by_cases h : n = (Config.defaultIntBit k).val
  · subst h
    split <;> simp_all
  · split <;> simp_all

/-- The bits of the rollover's pending set are those of the statements' pending set but COMPARE. -/
theorem getLsbD_pending_tickRollover (b b' : Bank) {n : Nat} (hn : n < 8) :
    (tickRollover Config.hardware b).pending.getLsbD n = true ↔ n ≠ 0 ∧ PendingBit b b' n := by
  obtain ⟨-, -, -, -, -, -, -, hp⟩ := rolled_tickRollover (c := Config.hardware) rfl rfl b
  rw [hp]
  simp only [BitVec.getLsbD_or, getLsbD_recorded _ _ _ hn, Config.defaultIntBit, monthEnds_hardware]
  interval_cases n <;> simp [PendingBit]

/-- The pending set of a whole TICK, bit by bit, gated or not (R160, R244). -/
theorem getLsbD_tickPending (g : Bool) (s : State) {n : Nat} (hn : n < 8) :
    (tickPending { Config.hardware with compareGated := g } s.bank).getLsbD n = true ↔
      PendingBit s.bank (tick { Config.hardware with compareGated := g } s).bank n ∧
        (n = 0 → g = true → (cell s.bank 17).getLsbD 0 = true) := by
  have hmatch := alarmMatch_iff (c := { Config.hardware with compareGated := g }) rfl
    (tick { Config.hardware with compareGated := g } s).bank
  have hctrl : cell (tickRollover Config.hardware s.bank).bank 17 = cell s.bank 17 :=
    cell_tickRollover _ _ (by simp [cascadeWrites_hardware])
  have hbit : conditionBit { Config.hardware with compareGated := g } .compare = 0x01#8 := rfl
  have hroll := getLsbD_pending_tickRollover s.bank (tick { Config.hardware with compareGated := g } s).bank hn
  rw [tickPending_eq, ← alarmMatch_tick, tickRollover_compareGated, BitVec.getLsbD_or, Bool.or_eq_true, hroll, hbit]
  by_cases h0 : n = 0
  · subst h0
    have hcompare : PendingBit s.bank (tick { Config.hardware with compareGated := g } s).bank 0 ↔
        alarmMatch { Config.hardware with compareGated := g } (tick { Config.hardware with compareGated := g } s).bank =
          true := hmatch.symm
    have henabled : enabled { Config.hardware with compareGated := g } (tickRollover Config.hardware s.bank).bank .compare =
        (cell s.bank 17).getLsbD 0 := congrArg (BitVec.getLsbD · 0) hctrl
    rw [hcompare, henabled]
    generalize (cell s.bank 17).getLsbD 0 = e
    generalize alarmMatch _ _ = m
    cases m <;> cases g <;> cases e <;> simp
  · have hother : (0x01#8).getLsbD n = false := by
      simp [h0]
    split <;> simp [h0, hother]

/-- The pending set of this hardware, which does not gate COMPARE. -/
theorem getLsbD_tickPending_hardware (s : State) {n : Nat} (hn : n < 8) :
    (tickPending Config.hardware s.bank).getLsbD n = true ↔ PendingBit s.bank (tick Config.hardware s).bank n := by
  have h := getLsbD_tickPending false s hn
  have hgate : ({ Config.hardware with compareGated := false } : Config) = Config.hardware := rfl
  rw [hgate] at h
  simpa using h

/-- Settles O29: `ISTAT` has what it had, or the pending set. -/
theorem tickRecordsItsConditions : Obligations.TickRecordsItsConditions := by
  unfold Obligations.TickRecordsItsConditions
  intro s hl
  refine ⟨_, exec_tick_running hl, fun n hn => ?_⟩
  rw [cell_tick_istat rfl, BitVec.getLsbD_or, Bool.or_eq_true, getLsbD_tickPending_hardware s hn]

/-- Settles O43: bit 0 of the pending set, with or without the gate. -/
theorem compareGateDecidesCompare : Obligations.CompareGateDecidesCompare := by
  unfold Obligations.CompareGateDecidesCompare
  intro g s hclear
  have hbit := getLsbD_tickPending g s (n := 0) (by decide)
  rw [cell_tick_istat rfl, BitVec.getLsbD_or, hclear, Bool.false_or, hbit]
  exact ⟨fun ⟨hm, he⟩ => ⟨hm, he rfl⟩, fun ⟨hm, he⟩ => ⟨hm, fun _ => he⟩⟩

theorem tickPending_ne_zero_iff (s : State) :
    tickPending Config.hardware s.bank ≠ 0x00#8 ↔ ∃ n, n < 8 ∧ PendingBit s.bank (tick Config.hardware s).bank n := by
  constructor
  · intro h
    by_contra hnone
    apply h
    apply BitVec.eq_of_getLsbD_eq
    intro n hn
    rw [BitVec.getLsbD_zero, ← Bool.not_eq_true, getLsbD_tickPending_hardware s hn]
    exact fun hbit => hnone ⟨n, hn, hbit⟩
  · rintro ⟨n, hn, hbit⟩ hzero
    rw [← getLsbD_tickPending_hardware s hn, hzero] at hbit
    simp at hbit

/-- Settles O30: `tickEvents` counts one event for a pending set that is not empty and a line. -/
theorem tickEmitsAtMostOneEvent : Obligations.TickEmitsAtMostOneEvent := by
  unfold Obligations.TickEmitsAtMostOneEvent
  intro s hl
  refine ⟨⟨_, exec_tick_running hl, fun hsome => ?_, fun hnone => ?_⟩, fun k hsome => ?_⟩
  · have hline : Config.hardware.irqLine = Config.hardwareIrqLine := rfl
    rw [tick_irqEvents_eq_add, tickEvents, if_neg ((tickPending_ne_zero_iff s).mpr hsome), hline]
    cases Config.hardwareIrqLine <;> rfl
  · have hzero : tickPending Config.hardware s.bank = 0x00#8 := by
      by_contra h
      obtain ⟨n, hn, hbit⟩ := (tickPending_ne_zero_iff s).mp h
      exact hnone n hn hbit
    rw [tick_irqEvents_eq_add, tickEvents, if_pos hzero, Nat.add_zero]
  · have hbank : (tick { Config.hardware with irqLine := some k } s).bank = (tick Config.hardware s).bank :=
      (noLineNoEvent Config.hardware s (some k)).2
    rw [hbank] at hsome
    rw [tick_irqEvents_eq_add, tickEvents, tickPending_irqLine, if_neg ((tickPending_ne_zero_iff s).mpr hsome)]
    rfl

/-- Settles O47: the four wildcards stay in their cells, so of the five fields only the seconds decide. -/
theorem secondsAlarmMatchesOnItsSecond : Obligations.SecondsAlarmMatchesOnItsSecond := by
  unfold Obligations.SecondsAlarmMatchesOnItsSecond
  intro s hl hclear h10 h11 h12 h14 h15 hyearEnd
  have hkept (i : Nat) (h : ¬((2 ≤ i ∧ i ≤ 7) ∨ i = 14)) (h16 : i ≠ 16) :
      cell (tick Config.hardware s).bank i = cell s.bank i := cell_tick _ _ (by rwa [cascadeWrites_hardware]) h16
  have hyear : cell (tick Config.hardware s).bank 14 = cell s.bank 14 := by
    obtain ⟨-, -, -, -, -, -, hyear, -⟩ := rolled_tick (c := Config.hardware) rfl rfl s
    rw [hyear, yearEnds_hardware, hyearEnd]
    rfl
  have hmatch : AlarmMatches (tick Config.hardware s).bank ↔ cell (tick Config.hardware s).bank 2 = cell s.bank 10 := by
    rw [← alarmMatch_iff (c := Config.hardware) rfl]
    simp [alarmMatch, fieldMatch, hkept 10 (by decide) (by decide), hkept 11 (by decide) (by decide),
      hkept 12 (by decide) (by decide), hkept 15 (by decide) (by decide), hyear, h10, h11, h12, h14, h15, eq_comm]
  refine ⟨_, exec_tick_running hl, ?_⟩
  rw [cell_tick_istat rfl, BitVec.getLsbD_or, hclear, Bool.false_or, getLsbD_tickPending_hardware s (by decide)]
  exact hmatch

end Sys2Proof
end

section
/-! A TICK over a WF bank (10_state.md R33, R34): each field of the cascade stays in its range, and carries at its end. -/

namespace Sys2Proof

open Sys2Proof.Machine Sys2Proof.Claims

/-- A field in its range carries out exactly from its last value. -/
theorem carryOut_eq {lo hi : Nat} {carryIn : Bool} {v : Byte} (hv : bcdWithin lo hi v = true) (hhi : hi < 99) :
    (carryIn && decide (hi < fromBCD (incBCD v 1))) = (carryIn && decide (fromBCD v = hi)) := by
  rw [bcdWithin_iff] at hv
  obtain ⟨-, -, hle⟩ := hv
  have hinc := fromBCD_incBCD v 1
  congr 1
  rw [decide_eq_decide]
  omega

section
variable {c : Config} {b : Bank} (wf : WellFormedCells c b)
include wf

theorem carriesSeconds_eq : carriesSeconds b = decide (fromBCD (cell b 2) = 59) :=
  carryOut_eq (carryIn := true) wf.sec (by decide)

theorem carriesMinutes_eq : carriesMinutes b = (carriesSeconds b && decide (fromBCD (cell b 3) = 59)) :=
  carryOut_eq wf.min (by decide)

theorem carriesHours_eq : carriesHours b = (carriesMinutes b && decide (fromBCD (cell b 4) = 23)) :=
  carryOut_eq wf.hr (by decide)

theorem monthEnds_eq : monthEnds c b = (carriesHours b &&
    decide (fromBCD (cell b 6) = dim c (fromBCD (cell b 7)) (fromBCD (cell b 14) + c.epochBase))) :=
  carryOut_eq wf.dom ((dim_le c _ _).trans_lt (by decide))

theorem yearEnds_eq : yearEnds c b = (monthEnds c b && decide (fromBCD (cell b 7) = 12)) :=
  carryOut_eq wf.mon (by decide)

end

/-- A field of the cascade that goes round from `start` to `hi` stays in its range and counts. -/
theorem rollField_counts {hi : Nat} {carryIn carryOut : Bool} {start v : Byte} (hv : bcdWithin (fromBCD start) hi v = true)
    (hstart : bcdWithin (fromBCD start) hi start = true) (hhi : hi < 99)
    (hout : carryOut = (carryIn && decide (hi < fromBCD (incBCD v 1)))) :
    bcdWithin (fromBCD start) hi (rollField carryIn carryOut start v) = true ∧
      fromBCD (rollField carryIn carryOut start v) =
        if carryIn then if fromBCD v = hi then fromBCD start else fromBCD v + 1 else fromBCD v := by
  rw [carryOut_eq hv hhi] at hout
  have hrange := bcdWithin_iff.mp hv
  have hinc := fromBCD_incBCD v 1
  cases carryIn with
  | false => simp [rollField, hout, hv]
  | true =>
    by_cases hend : fromBCD v = hi
    · simp [rollField, hout, hend, hstart]
    · have hnext : fromBCD (incBCD v 1) = fromBCD v + 1 := by omega
      have hin : bcdWithin (fromBCD start) hi (incBCD v 1) = true := by
        rw [bcdWithin_iff, hnext]
        exact ⟨isBCD_incBCD v 1, by omega, by omega⟩
      simp [rollField, hout, hend, hnext, hin]

theorem le_dim (c : Config) (m y : Nat) : 28 ≤ dim c m y := by
  unfold dim
  split
  case h_12 => split <;> omega
  all_goals omega

section
variable {c : Config} {b b' : Bank} {p : Byte} (roll : Rolled c b b' p) (wf : WellFormedCells c b)
include roll wf

theorem Rolled.sec_counts : bcdWithin 0 59 (cell b' 2) = true ∧
    fromBCD (cell b' 2) = if fromBCD (cell b 2) = 59 then 0 else fromBCD (cell b 2) + 1 := by
  rw [roll.sec]
  exact rollField_counts (start := 0x00#8) wf.sec (by decide) (by decide) rfl

theorem Rolled.min_counts : bcdWithin 0 59 (cell b' 3) = true ∧ fromBCD (cell b' 3) =
    if carriesSeconds b then if fromBCD (cell b 3) = 59 then 0 else fromBCD (cell b 3) + 1 else fromBCD (cell b 3) := by
  rw [roll.min]
  exact rollField_counts (start := 0x00#8) wf.min (by decide) (by decide) rfl

theorem Rolled.hr_counts : bcdWithin 0 23 (cell b' 4) = true ∧ fromBCD (cell b' 4) =
    if carriesMinutes b then if fromBCD (cell b 4) = 23 then 0 else fromBCD (cell b 4) + 1 else fromBCD (cell b 4) := by
  rw [roll.hr]
  exact rollField_counts (start := 0x00#8) wf.hr (by decide) (by decide) rfl

theorem Rolled.dow_counts : bcdWithin 1 7 (cell b' 5) = true ∧ fromBCD (cell b' 5) =
    if carriesHours b then if fromBCD (cell b 5) = 7 then 1 else fromBCD (cell b 5) + 1 else fromBCD (cell b 5) := by
  rw [roll.dow]
  exact rollField_counts (start := 0x01#8) wf.dow (by decide) (by decide) rfl

theorem Rolled.mon_counts : bcdWithin 1 12 (cell b' 7) = true ∧ fromBCD (cell b' 7) =
    if monthEnds c b then if fromBCD (cell b 7) = 12 then 1 else fromBCD (cell b 7) + 1 else fromBCD (cell b 7) := by
  rw [roll.mon]
  exact rollField_counts (start := 0x01#8) wf.mon (by decide) (by decide) rfl

/-- The day goes round within the month before the TICK. -/
theorem Rolled.dom_counts :
    bcdWithin 1 (dim c (fromBCD (cell b 7)) (fromBCD (cell b 14) + c.epochBase)) (cell b' 6) = true ∧
      fromBCD (cell b' 6) = if carriesHours b then
        if fromBCD (cell b 6) = dim c (fromBCD (cell b 7)) (fromBCD (cell b 14) + c.epochBase) then 1
        else fromBCD (cell b 6) + 1 else fromBCD (cell b 6) := by
  have hle := dim_le c (fromBCD (cell b 7)) (fromBCD (cell b 14) + c.epochBase)
  have hge := le_dim c (fromBCD (cell b 7)) (fromBCD (cell b 14) + c.epochBase)
  have hone : fromBCD 0x01#8 = 1 := by decide
  rw [roll.dom]
  exact rollField_counts (start := 0x01#8) wf.dom (by rw [bcdWithin_iff]; exact ⟨by decide, by omega, by omega⟩) (by omega) rfl

omit wf in
theorem Rolled.year_counts : fromBCD (cell b' 14) =
    if yearEnds c b then (fromBCD (cell b 14) + 1) % 100 else fromBCD (cell b 14) := by
  rw [roll.year, rollField_never]
  split
  · exact fromBCD_incBCD _ 1
  · rfl

/-- The bank stays WF: a month end leaves day 1, which every month has; otherwise month and year stand. -/
theorem Rolled.wellFormedCells : WellFormedCells c b' := by
  obtain ⟨hsec, -⟩ := roll.sec_counts wf
  obtain ⟨hmin, -⟩ := roll.min_counts wf
  obtain ⟨hhr, -⟩ := roll.hr_counts wf
  obtain ⟨hdow, -⟩ := roll.dow_counts wf
  obtain ⟨hmon, -⟩ := roll.mon_counts wf
  obtain ⟨hdom, -⟩ := roll.dom_counts wf
  refine ⟨hsec, hmin, hhr, hdow, hmon, ?_, ?_⟩
  · rw [roll.year, rollField_never]
    split
    · exact isBCD_incBCD _ 1
    · exact wf.year
  · by_cases hend : monthEnds c b = true
    · have hone : fromBCD 0x01#8 = 1 := by decide
      have hge := le_dim c (fromBCD (cell b' 7)) (fromBCD (cell b' 14) + c.epochBase)
      rw [roll.dom, hend, rollField, if_pos rfl, bcdWithin_iff]
      exact ⟨by decide, by omega, by omega⟩
    · have hyear : yearEnds c b = false := by simp [yearEnds, hend]
      have hmonth : cell b' 7 = cell b 7 := by simp [roll.mon, hend, hyear, rollField]
      have hyr : cell b' 14 = cell b 14 := by simp [roll.year, hyear, rollField]
      rw [hmonth, hyr]
      exact hdom

end

/-- A TICK keeps a WF bank WF, whatever the calendar. -/
theorem wellFormedCells_tick {c : Config} (hy : c.yearIdx = some 14) (hs : c.tickStep = 1) {s : State}
    (wf : WellFormedCells c s.bank) : WellFormedCells c (tick c s).bank :=
  (rolled_tick hy hs s).wellFormedCells wf

/-- Settles O32: `wellFormedCells_tick`, in the statement's words. -/
theorem tickKeepsTheBankWellFormed : Obligations.TickKeepsTheBankWellFormed := by
  unfold Obligations.TickKeepsTheBankWellFormed
  intro c s hy hs hwf
  rw [bankWellFormed_iff hy] at hwf ⊢
  exact wellFormedCells_tick hy hs hwf

end Sys2Proof
end

section
/-! The calendar that the statements count in: days since 1 January 1980 (43_tick_engine.md R170, 00_scope.md R7). -/

namespace Sys2Proof

open Sys2Proof.Machine Sys2Proof.Claims

/-- `dayNumber` as a function of the date: year of the register, month, day. -/
def dateNumber (y m d : Nat) : Nat :=
  365 * y + (y + 3) / 4 + daysBeforeMonth m + (if y % 4 = 0 ∧ 2 < m then 1 else 0) + (d - 1)

theorem dayNumber_eq_dateNumber (b : Bank) :
    dayNumber b = dateNumber (fromBCD (cell b 14)) (fromBCD (cell b 7)) (fromBCD (cell b 6)) := rfl

/-- The lengths of the months in the register's hundred years. -/
def monthLength (y m : Nat) : Nat := dim Config.hardware m (y + 1980)

theorem monthLength_february {y : Nat} (hy : y ≤ 99) : monthLength y 2 = if y % 4 = 0 then 29 else 28 := by
  have hleap : Config.hardware.isLeap (y + 1980) = decide ((y + 1980) % 4 = 0) := gregorian_in_range (by omega) (by omega)
  have hmod : (y + 1980) % 4 = y % 4 := by omega
  simp [monthLength, dim, hleap, hmod]

/-- The day after the last of a month is the first of the next. -/
theorem dateNumber_monthEnd {y m : Nat} (hy : y ≤ 99) (h1 : 1 ≤ m) (h11 : m ≤ 11) :
    dateNumber y m (monthLength y m) + 1 = dateNumber y (m + 1) 1 := by
  by_cases hfeb : m = 2
  · subst hfeb
    rw [monthLength_february hy]
    simp only [dateNumber, daysBeforeMonth]
    split_ifs <;> omega
  · interval_cases m
    all_goals simp [dateNumber, daysBeforeMonth, monthLength, dim] at hfeb ⊢ <;> omega

/-- The day after 31 December is 1 January. -/
theorem dateNumber_yearEnd (y : Nat) : dateNumber y 12 (monthLength y 12) + 1 = dateNumber (y + 1) 1 1 := by
  simp only [dateNumber, daysBeforeMonth, monthLength, dim]
  split_ifs <;> omega

theorem dateNumber_succ {y m d : Nat} (hd : 1 ≤ d) : dateNumber y m (d + 1) = dateNumber y m d + 1 := by
  simp only [dateNumber]
  omega

theorem daysBeforeMonth_le (m : Nat) : daysBeforeMonth m ≤ 334 := by
  unfold daysBeforeMonth
  split <;> omega

/-- Every date of the hundred years is one of their days. -/
theorem dateNumber_lt {y m d : Nat} (hy : y ≤ 99) (hd : d ≤ monthLength y m) :
    dateNumber y m d < daysOfCentury := by
  have hbefore := daysBeforeMonth_le m
  have hle := dim_le Config.hardware m (y + 1980)
  rw [monthLength] at hd
  simp only [dateNumber, daysOfCentury]
  split_ifs <;> omega

/-- The date of the next second: the same day, the next of the month, the first of the next month, or 1 January. -/
theorem dateNumber_next {y m d : Nat} {carry : Bool} (hy : y ≤ 99) (h1 : 1 ≤ m) (h12 : m ≤ 12) (hd : 1 ≤ d)
    (hlen : d ≤ monthLength y m) :
    dateNumber (if carry && decide (d = monthLength y m) && decide (m = 12) then (y + 1) % 100 else y)
      (if carry && decide (d = monthLength y m) then if m = 12 then 1 else m + 1 else m)
      (if carry then if d = monthLength y m then 1 else d + 1 else d) =
      (dateNumber y m d + carry.toNat) % daysOfCentury := by
  cases carry with
  | false => simp [Nat.mod_eq_of_lt (dateNumber_lt hy hlen)]
  | true =>
    have hone (y' m' : Nat) : 1 ≤ monthLength y' m' := (le_dim _ _ _).trans' (by decide)
    by_cases hlast : d = monthLength y m
    · by_cases hdec : m = 12
      · subst hlast hdec
        rw [Bool.toNat_true, dateNumber_yearEnd]
        by_cases hcentury : y = 99
        · subst hcentury
          decide
        · have hmod : (y + 1) % 100 = y + 1 := Nat.mod_eq_of_lt (by omega)
          have hlt : dateNumber (y + 1) 1 1 < daysOfCentury := dateNumber_lt (by omega) (hone _ _)
          simp [hmod, Nat.mod_eq_of_lt hlt]
      · have hlt : dateNumber y (m + 1) 1 < daysOfCentury := dateNumber_lt hy (hone _ _)
        subst hlast
        simp [hdec, dateNumber_monthEnd hy h1 (by omega), Nat.mod_eq_of_lt hlt]
    · have hlt : dateNumber y m (d + 1) < daysOfCentury := dateNumber_lt hy (by omega)
      rw [dateNumber_succ hd] at hlt
      simp [hlast, dateNumber_succ hd, Nat.mod_eq_of_lt hlt]

end Sys2Proof
end

section
/-! A TICK over a WF bank is one second of that calendar (43_tick_engine.md sections 2 and 4). -/

namespace Sys2Proof

open Sys2Proof.Machine Sys2Proof.Claims

section
variable {c : Config} {b b' : Bank} {p : Byte}

/-- The hours carry comes with the last second of the day. -/
theorem day_carry_eq (wf : WellFormedCells c b) : (secondOfDay b + 1) / 86400 = (carriesHours b).toNat := by
  obtain ⟨-, -, hsec⟩ := bcdWithin_iff.mp wf.sec
  obtain ⟨-, -, hmin⟩ := bcdWithin_iff.mp wf.min
  obtain ⟨-, -, hhr⟩ := bcdWithin_iff.mp wf.hr
  rw [carriesHours_eq wf, carriesMinutes_eq wf, carriesSeconds_eq wf, secondOfDay]
  by_cases hend : (fromBCD (cell b 2) = 59 ∧ fromBCD (cell b 3) = 59) ∧ fromBCD (cell b 4) = 23
  · simp [hend]
  · rw [← Bool.decide_and, ← Bool.decide_and, decide_eq_false hend]
    simp
    omega

theorem secondOfDay_lt (wf : WellFormedCells c b) : secondOfDay b < 86400 := by
  obtain ⟨-, -, hsec⟩ := bcdWithin_iff.mp wf.sec
  obtain ⟨-, -, hmin⟩ := bcdWithin_iff.mp wf.min
  obtain ⟨-, -, hhr⟩ := bcdWithin_iff.mp wf.hr
  rw [secondOfDay]
  omega

theorem Rolled.secondOfDay_eq (roll : Rolled c b b' p) (wf : WellFormedCells c b) :
    secondOfDay b' = (secondOfDay b + 1) % 86400 := by
  obtain ⟨-, -, hsec⟩ := bcdWithin_iff.mp wf.sec
  obtain ⟨-, -, hmin⟩ := bcdWithin_iff.mp wf.min
  obtain ⟨-, -, hhr⟩ := bcdWithin_iff.mp wf.hr
  obtain ⟨-, hsec'⟩ := roll.sec_counts wf
  obtain ⟨-, hmin'⟩ := roll.min_counts wf
  obtain ⟨-, hhr'⟩ := roll.hr_counts wf
  simp only [carriesMinutes_eq wf, carriesSeconds_eq wf, Bool.and_eq_true, decide_eq_true_eq] at hmin' hhr'
  rw [secondOfDay, secondOfDay, hsec', hmin', hhr']
  split_ifs <;> omega

theorem Rolled.weekday_eq (roll : Rolled c b b' p) (wf : WellFormedCells c b) :
    fromBCD (cell b' 5) = (fromBCD (cell b 5) - 1 + (carriesHours b).toNat) % 7 + 1 := by
  obtain ⟨-, hlo, hhi⟩ := bcdWithin_iff.mp wf.dow
  obtain ⟨-, hdow⟩ := roll.dow_counts wf
  rw [hdow]
  cases carriesHours b with
  | false =>
    simp
    omega
  | true =>
    simp
    split_ifs <;> omega

end

theorem dayNumber_lt {b : Bank} (wf : WellFormedCells Config.hardware b) : dayNumber b < daysOfCentury := by
  obtain ⟨-, -, hlen⟩ := bcdWithin_iff.mp wf.dom
  exact dateNumber_lt (Nat.le_of_lt_succ (fromBCD_lt_of_isBCD wf.year)) hlen

/-- The date moves on with the hours carry, as `dateNumber_next` says. -/
theorem Rolled.dayNumber_eq {b b' : Bank} {p : Byte} (roll : Rolled Config.hardware b b' p)
    (wf : WellFormedCells Config.hardware b) :
    dayNumber b' = (dayNumber b + (carriesHours b).toNat) % daysOfCentury := by
  obtain ⟨-, hmon1, hmon12⟩ := bcdWithin_iff.mp wf.mon
  obtain ⟨-, hdom1, hlen⟩ := bcdWithin_iff.mp wf.dom
  obtain ⟨-, hdom⟩ := roll.dom_counts wf
  obtain ⟨-, hmon⟩ := roll.mon_counts wf
  have hyear := roll.year_counts
  have hy : fromBCD (cell b 14) ≤ 99 := Nat.le_of_lt_succ (fromBCD_lt_of_isBCD wf.year)
  rw [yearEnds_eq wf, monthEnds_eq wf] at hyear
  rw [monthEnds_eq wf] at hmon
  rw [dayNumber_eq_dateNumber, dayNumber_eq_dateNumber, hdom, hmon, hyear]
  exact dateNumber_next hy hmon1 hmon12 hdom1 hlen

/-- A TICK over a WF bank: one second more, and at the last second of the day one day more. -/
theorem tick_calendar {s : State} (hwf : bankWellFormed Config.hardware s.bank = true) :
    bankWellFormed Config.hardware (tick Config.hardware s).bank = true ∧
      secondOfDay (tick Config.hardware s).bank = (secondOfDay s.bank + 1) % 86400 ∧
      dayNumber (tick Config.hardware s).bank = (dayNumber s.bank + (secondOfDay s.bank + 1) / 86400) % daysOfCentury ∧
      fromBCD (cell (tick Config.hardware s).bank 5) =
        (fromBCD (cell s.bank 5) - 1 + (secondOfDay s.bank + 1) / 86400) % 7 + 1 := by
  have roll := rolled_tick (c := Config.hardware) rfl rfl s
  rw [bankWellFormed_iff rfl] at hwf
  rw [day_carry_eq hwf, bankWellFormed_iff rfl]
  exact ⟨roll.wellFormedCells hwf, roll.secondOfDay_eq hwf, roll.dayNumber_eq hwf, roll.weekday_eq hwf⟩

/-- Settles O33: `tick_calendar`, while RUNNING. -/
theorem tickIsOneSecondOfTheCalendar : Obligations.TickIsOneSecondOfTheCalendar := by
  unfold Obligations.TickIsOneSecondOfTheCalendar
  intro s hl hwf
  exact ⟨_, exec_tick_running hl, tick_calendar hwf⟩

end Sys2Proof
end

section
/-! Runs over pending TICKs (43_tick_engine.md section 6). -/

namespace Sys2Proof

open Sys2Proof.Machine Sys2Proof.Claims

theorem nextAreTicks_succ {n : Nat} {s : State} (h : NextAreTicks (n + 1) s) :
    ∃ t rest, s.input = t :: rest ∧ decode t.word = .tick ∧ NextAreTicks n { s with input := rest, hostTime := t.host } := by
  obtain ⟨hlen, hticks⟩ := h
  cases hin : s.input with
  | nil => simp [hin] at hlen
  | cons t rest =>
    rw [hin] at hlen hticks
    refine ⟨t, rest, rfl, hticks t (by simp), by simpa using hlen, fun u hu => hticks u ?_⟩
    simp [hu]

/-- What TICKs keep, counted: if one TICK takes `P k` to `P (k + 1)`, whatever the rest of the stream and the host time, then a run
over `n` pending TICKs takes `P 0` to `P n`. -/
theorem run_ticks {P : Nat → State → Prop} (hstep : ∀ k (u : State) rest h, P k u →
      P (k + 1) (tick Config.hardware { u with input := rest, hostTime := h }))
    (n : Nat) {k : Nat} {s : State} (hl : s.life = .running) (hticks : NextAreTicks n s) (h0 : P k s) :
    ∃ t : State, Sys2Proof.core.run n s = .next t ∧ t.life = .running ∧ t.input = s.input.drop n ∧ P (k + n) t := by
  induction n generalizing k s with
  | zero => exact ⟨s, run_zero s, hl, rfl, h0⟩
  | succ n ih =>
    obtain ⟨t, rest, hin, htick, hrest⟩ := nextAreTicks_succ hticks
    have hnext : step s = .next (tick Config.hardware { s with input := rest, hostTime := t.host }) := by
      rw [step_cons hin, htick]
      exact exec_tick_running hl
    obtain ⟨u, hrun, hlife, hdrop, hP⟩ := ih (s := tick Config.hardware { s with input := rest, hostTime := t.host })
      (by simpa using hl) (by simpa [NextAreTicks] using hrest) (hstep k s rest t.host h0)
    refine ⟨u, (run_succ_of_next n hnext).trans hrun, hlife, by simp [hdrop, hin], ?_⟩
    rwa [Nat.add_right_comm, Nat.add_assoc] at hP

/-- The clock of `u` is that of `s`, `k` seconds later. -/
structure SecondsLater (s : State) (k : Nat) (u : State) : Prop where
  wf : bankWellFormed Config.hardware u.bank = true
  time : secondOfDay u.bank = (secondOfDay s.bank + k) % 86400
  date : dayNumber u.bank = (dayNumber s.bank + (secondOfDay s.bank + k) / 86400) % daysOfCentury
  weekday : fromBCD (cell u.bank 5) = (fromBCD (cell s.bank 5) - 1 + (secondOfDay s.bank + k) / 86400) % 7 + 1

theorem secondsLater_zero {s : State} (hwf : bankWellFormed Config.hardware s.bank = true) : SecondsLater s 0 s := by
  have wf := (bankWellFormed_iff rfl).mp hwf
  have htime := secondOfDay_lt wf
  have hdate := dayNumber_lt wf
  obtain ⟨-, hlo, hhi⟩ := bcdWithin_iff.mp wf.dow
  constructor
  case wf => exact hwf
  case time => omega
  case date =>
    rw [daysOfCentury] at hdate ⊢
    omega
  case weekday => omega

theorem secondsLater_tick {s u : State} {k : Nat} (h : SecondsLater s k u) (rest : List Transaction) (host : HostTime) :
    SecondsLater s (k + 1) (tick Config.hardware { u with input := rest, hostTime := host }) := by
  obtain ⟨hwf, htime, hdate, hweekday⟩ := h
  obtain ⟨hwf', htime', hdate', hweekday'⟩ := tick_calendar (s := { u with input := rest, hostTime := host }) hwf
  simp only [htime, hdate, hweekday] at htime' hdate' hweekday'
  constructor
  case wf => exact hwf'
  case time =>
    rw [htime']
    omega
  case date =>
    rw [hdate']
    simp only [daysOfCentury]
    omega
  case weekday =>
    rw [hweekday']
    omega

/-- Settles O34: `secondsLater_tick`, run `n` times. -/
theorem ticksCountSeconds : Obligations.TicksCountSeconds := by
  unfold Obligations.TicksCountSeconds
  intro n s hl hwf hticks
  obtain ⟨t, hrun, hlife, hinput, hlater⟩ := run_ticks (P := SecondsLater s)
    (fun _ _ rest host h => secondsLater_tick h rest host) n hl hticks (secondsLater_zero hwf)
  rw [Nat.zero_add] at hlater
  obtain ⟨hwf', htime, hdate, hweekday⟩ := hlater
  exact ⟨t, hrun, hlife, hinput, hwf', htime, hdate, hweekday⟩

theorem fields_of_secondOfDay {c : Config} {b : Bank} (wf : WellFormedCells c b) :
    fromBCD (cell b 4) = secondOfDay b / 3600 ∧ fromBCD (cell b 3) = secondOfDay b / 60 % 60 ∧
      fromBCD (cell b 2) = secondOfDay b % 60 := by
  obtain ⟨-, -, hsec⟩ := bcdWithin_iff.mp wf.sec
  obtain ⟨-, -, hmin⟩ := bcdWithin_iff.mp wf.min
  obtain ⟨-, -, hhr⟩ := bcdWithin_iff.mp wf.hr
  rw [secondOfDay]
  omega

theorem isBCD_of_bcdWithin {lo hi : Nat} {v : Byte} (h : bcdWithin lo hi v = true) : isBCD v = true :=
  (bcdWithin_iff.mp h).1

theorem eq_zero_of_fromBCD {v : Byte} (h : isBCD v = true) (hv : fromBCD v = 0) : v = 0x00#8 :=
  eq_of_fromBCD_eq h (by decide) (hv.trans (by decide))

/-- Settles O35: each field is a quotient of the second of the day, which `ticksCountSeconds` gives. -/
theorem fieldCycles : Obligations.FieldCycles := by
  unfold Obligations.FieldCycles
  intro s hl hwf
  have wf := (bankWellFormed_iff rfl).mp hwf
  obtain ⟨hhr, hmin, hsec⟩ := fields_of_secondOfDay wf
  have hzero : fromBCD 0x00#8 = 0 := by decide
  refine ⟨fun hticks => ?_, fun hticks h2 h3 => ?_, fun hticks h2 h3 h4 => ?_⟩
  all_goals
    obtain ⟨t, hrun, -, -, hwf', htime, hdate, -⟩ := ticksCountSeconds _ s hl hwf hticks
    have wf' := (bankWellFormed_iff rfl).mp hwf'
    obtain ⟨hhr', hmin', hsec'⟩ := fields_of_secondOfDay wf'
    refine ⟨t, hrun, ?_⟩
  · exact eq_of_fromBCD_eq (isBCD_of_bcdWithin wf'.sec) (isBCD_of_bcdWithin wf.sec) (by omega)
  · rw [h2, hzero] at hsec
    rw [h3, hzero] at hmin
    have hday := secondOfDay_lt wf
    refine ⟨eq_zero_of_fromBCD (isBCD_of_bcdWithin wf'.sec) (by omega),
      eq_zero_of_fromBCD (isBCD_of_bcdWithin wf'.min) (by omega), ?_⟩
    split
    case isTrue hlast =>
      have h23 : fromBCD 0x23#8 = 23 := by decide
      rw [hlast, h23] at hhr
      exact eq_zero_of_fromBCD (isBCD_of_bcdWithin wf'.hr) (by omega)
    case isFalse hlast =>
      have hne : fromBCD (cell s.bank 4) ≠ 23 := fun h =>
        hlast (eq_of_fromBCD_eq (isBCD_of_bcdWithin wf.hr) (by decide) (h.trans (by decide)))
      have hinc := fromBCD_incBCD (cell s.bank 4) 1
      exact eq_of_fromBCD_eq (isBCD_of_bcdWithin wf'.hr) (isBCD_incBCD _ 1) (by omega)
  · have hday : secondOfDay s.bank = 0 := by simp [secondOfDay, h2, h3, h4, hzero]
    rw [hday] at htime hdate
    exact ⟨eq_zero_of_fromBCD (isBCD_of_bcdWithin wf'.sec) (by omega),
      eq_zero_of_fromBCD (isBCD_of_bcdWithin wf'.min) (by omega),
      eq_zero_of_fromBCD (isBCD_of_bcdWithin wf'.hr) (by omega), hdate⟩

end Sys2Proof
end

section
/-! Which cells each operation may write, said once for every operation (42_port_interface.md R123-R130, 43_tick_engine.md R164). -/

namespace Sys2Proof

open Sys2Proof.Machine Sys2Proof.Claims

/-- The operation may change the cell: every cell is cleared, or the cell is one that the operation names. -/
def mayWrite (i : Instr) (n : Nat) : Prop :=
  i = .reset ∨ i = .wrRstram ∨ (i = .wrGo ∧ (n ≤ 7 ∨ n = 14)) ∨ (i = .tick ∧ ((2 ≤ n ∧ n ≤ 7) ∨ n = 14 ∨ n = 16)) ∨
    (i = .wrIstat ∧ n = 16) ∨ (i = .wrRstcnt ∧ n ≤ 1) ∨ ∃ d, storeTarget i = some (n, d)

/-- No operation changes another cell. -/
theorem exec_cell_kept {i : Instr} {s t : State} {n : Nat} (h : exec i s = .next t) (hn : ¬mayWrite i n) :
    cell t.bank n = cell s.bank n := by
  obtain h32 | h32 := Nat.lt_or_ge n 32
  case inr => rw [cell_outside _ h32, cell_outside _ h32]
  simp only [mayWrite, not_or] at hn
  obtain ⟨hreset, hrstram, hgo, htick, histat, hrstcnt, hstore⟩ := hn
  obtain ⟨rfl, -, -⟩ | ⟨-, -, rfl⟩ | ⟨-, heffect⟩ := exec_eq_next h
  · exact absurd rfl hreset
  · rfl
  · obtain ⟨a, -, rfl⟩ | ⟨m, d, hm, rfl⟩ | ⟨rfl, rfl⟩ | ⟨rfl, rfl⟩ | ⟨rfl, -⟩ | ⟨rfl, rfl⟩ | ⟨rfl, rfl⟩ := heffect
    · rfl
    · rw [← storeTarget_eq_plainStoreOf] at hm
      have hne : m ≠ n := by
        rintro rfl
        exact hstore ⟨d, hm⟩
      exact cell_store_ne _ _ hne
    · exact cell_store_ne _ _ fun h16 => histat ⟨rfl, h16.symm⟩
    · have hne : 0 ≠ n ∧ 1 ≠ n := by
        simp at hrstcnt
        omega
      simp [hne]
    · exact absurd rfl hrstram
    · refine cellsKeptExcept_load _ _ n h32 ?_
      simp at hgo ⊢
      omega
    · simp only [true_and] at htick
      exact cell_tick _ _ (by rw [cascadeWrites_hardware]; omega) (by omega)

theorem bank_of_clearAndLoad {i : Instr} {s t : State} (hi : i = .reset ∨ i = .wrRstram) (h : exec i s = .next t) :
    t.bank = clearAndLoad Config.hardware s.hostTime := by
  obtain rfl | rfl := hi
  · rw [exec_reset, unlessClosed_eq_next] at h
    obtain ⟨-, rfl⟩ := h
    rfl
  · rw [exec_wrRstram, whenRunning_eq_next] at h
    obtain ⟨-, rfl⟩ := h
    rfl

theorem bank_of_wrGo {s t : State} (h : exec .wrGo s = .next t) : t.bank = load Config.hardware s.hostTime s.bank := by
  rw [exec_wrGo, whenRunning_eq_next] at h
  obtain ⟨-, rfl⟩ := h
  rfl

theorem eq_tick_of_exec {s t : State} (h : exec .tick s = .next t) : t = tick Config.hardware s := by
  rw [exec_tick, whenRunning_eq_next] at h
  exact h.2.symm

/-- Only a clear writes a command cell. -/
theorem clear_of_mayWrite_command {i : Instr} {n : Nat} (hn : n = 18 ∨ n = 19 ∨ n = 21) (h : mayWrite i n) :
    i = .reset ∨ i = .wrRstram := by
  obtain h | h | ⟨-, h⟩ | ⟨-, h⟩ | ⟨-, h⟩ | ⟨-, h⟩ | ⟨d, h⟩ := h
  case inr.inr.inr.inr.inr.inr =>
    obtain ⟨-, -, h18, h19, h21⟩ := storeTarget_index h
    omega
  case inl => exact .inl h
  case inr.inl => exact .inr h
  all_goals omega

theorem setsClockCell_of_storeTarget {i : Instr} {n : Nat} {d : Byte} (h : storeTarget i = some (n, d))
    (hn : (2 ≤ n ∧ n ≤ 7) ∨ n = 14) : setsClockCell i = true := by
  cases i <;> simp [storeTarget] at h
  case wrStoreClock a v => simpa [setsClockCell, clockIndex, h.1] using hn
  all_goals omega

/-- A clock cell is written by a Load, a TICK or a plain store to it. -/
theorem cases_of_mayWrite_clock {i : Instr} {n : Nat} (hn : (2 ≤ n ∧ n ≤ 7) ∨ n = 14) (h : mayWrite i n) :
    i = .reset ∨ i = .wrRstram ∨ i = .wrGo ∨ i = .tick ∨ setsClockCell i = true := by
  obtain h | h | ⟨h, -⟩ | ⟨h, -⟩ | ⟨-, h⟩ | ⟨-, h⟩ | ⟨d, h⟩ := h
  case inr.inr.inr.inr.inr.inr => simp [setsClockCell_of_storeTarget h hn]
  case inr.inr.inr.inr.inl => omega
  case inr.inr.inr.inr.inr.inl => omega
  all_goals simp [h]

end Sys2Proof
end

section
/-! The invariants of every step (10_state.md R34, R35). -/

namespace Sys2Proof

open Sys2Proof.Machine Sys2Proof.Claims

theorem exec_keeps_commandInvariant {i : Instr} {s t : State} (inv : commandInvariant s) (h : exec i s = .next t) :
    commandInvariant t := by
  intro hrun
  by_cases hclear : i = .reset ∨ i = .wrRstram
  · rw [bank_of_clearAndLoad hclear h]
    exact commandCellsZero_clearAndLoad _
  · have hl : s.life = .running := by
      obtain ⟨-, hlife | ⟨hi, -⟩ | ⟨-, hclosed⟩⟩ := exec_life h
      · rw [← hlife, hrun]
      · exact absurd (.inl hi) hclear
      · rw [hrun] at hclosed
        cases hclosed
    have hkept (n : Nat) (hn : n = 18 ∨ n = 19 ∨ n = 21) : cell t.bank n = cell s.bank n :=
      exec_cell_kept h fun hw => hclear (clear_of_mayWrite_command hn hw)
    have hzero := inv hl
    rw [commandCellsZero_iff] at hzero ⊢
    rwa [hkept 18 (by decide), hkept 19 (by decide), hkept 21 (by decide)]

/-- Settles O54: the step's operation keeps the invariant, and the RD answers the cell that it names. -/
theorem commandCellsStayZero : Obligations.CommandCellsStayZero := by
  unfold Obligations.CommandCellsStayZero
  constructor
  · intro s s' inv h
    obtain ⟨-, rfl⟩ | ⟨t, rest, -, hexec⟩ := step_eq_next h
    · exact inv
    · exact exec_keeps_commandInvariant (s := { s with input := rest, hostTime := t.host }) inv hexec
  · intro s a inv hl ha
    obtain ⟨h18, h19, h21⟩ := commandCellsZero_iff.mp (inv hl)
    have hzero : cell s.bank a.toNat = 0x00#8 := by
      simp only [List.mem_cons, List.not_mem_nil, or_false] at ha
      obtain ha | ha | ha := ha <;> rw [ha] <;> assumption
    rw [readAnswersTheStoredByte s a hl, hzero]

/-- A TICK keeps a WF bank, a Load of a valid sample makes one, and no other operation reaches the clock cells. -/
theorem exec_keeps_wellFormed {i : Instr} {s t : State} (hwf : bankWellFormed Config.hardware s.bank = true)
    (hi : setsClockCell i = false) (hv : HostTime.valid Config.hardware s.hostTime = true) (h : exec i s = .next t) :
    bankWellFormed Config.hardware t.bank = true := by
  by_cases hclock : i = .reset ∨ i = .wrRstram ∨ i = .wrGo ∨ i = .tick
  · obtain hreset | hrstram | rfl | rfl := hclock
    · rw [bank_of_clearAndLoad (.inl hreset) h]
      exact bankWellFormed_load hv zeroBank
    · rw [bank_of_clearAndLoad (.inr hrstram) h]
      exact bankWellFormed_load hv zeroBank
    · rw [bank_of_wrGo h]
      exact bankWellFormed_load hv s.bank
    · rw [eq_tick_of_exec h]
      exact tickKeepsTheBankWellFormed Config.hardware s rfl rfl hwf
  · rw [bankWellFormed_congr fun n hn => exec_cell_kept h fun hw => hclock ?_]
    · exact hwf
    · simpa [hi] using cases_of_mayWrite_clock hn hw

/-- Settles O56: the step's operation by `exec_keeps_wellFormed`; with nothing pending the bank stands. -/
theorem onlyClockStoresBreakWellFormedness : Obligations.OnlyClockStoresBreakWellFormedness := by
  unfold Obligations.OnlyClockStoresBreakWellFormedness
  intro s s' hwf hpending h
  obtain ⟨-, rfl⟩ | ⟨t, rest, hin, hexec⟩ := step_eq_next h
  · exact hwf
  · obtain ⟨hi, hv⟩ := hpending t rest hin
    exact exec_keeps_wellFormed (s := { s with input := rest, hostTime := t.host }) hwf hi hv hexec

end Sys2Proof
end

section
/-! Who changes `ISTAT`, and who puts something out (10_state.md R31, 42_port_interface.md R132). -/

namespace Sys2Proof

open Sys2Proof.Machine Sys2Proof.Claims

theorem or_and_self_left (x p : Byte) : (x ||| p) &&& x = x := by
  apply BitVec.eq_of_getLsbD_eq
  intro i _
  simp
  tauto

/-- R31, for the operation of a step. -/
theorem exec_istat {i : Instr} {s t : State} (h : exec i s = .next t) (hne : cell t.bank 16 ≠ cell s.bank 16) :
    (i = .tick ∧ cell t.bank 16 &&& cell s.bank 16 = cell s.bank 16) ∨
      ((i = .wrIstat ∨ i = .wrRstram ∨ i = .reset) ∧ cell t.bank 16 = 0x00#8) := by
  have hw : mayWrite i 16 := by
    by_contra hw
    exact hne (exec_cell_kept h hw)
  have hclear (hi : i = .reset ∨ i = .wrRstram) : cell t.bank 16 = 0x00#8 := by
    rw [bank_of_clearAndLoad hi h]
    exact cell_clearAndLoad_other _ (by decide) (by decide) (by decide)
  obtain hi | hi | ⟨-, h16⟩ | ⟨rfl, -⟩ | ⟨rfl, -⟩ | ⟨-, h16⟩ | ⟨d, hstore⟩ := hw
  · exact .inr ⟨.inr (.inr hi), hclear (.inl hi)⟩
  · exact .inr ⟨.inr (.inl hi), hclear (.inr hi)⟩
  · omega
  · rw [eq_tick_of_exec h, cell_tick_istat rfl]
    exact .inl ⟨rfl, or_and_self_left _ _⟩
  · rw [exec_wrIstat, whenRunning_eq_next] at h
    obtain ⟨-, rfl⟩ := h
    exact .inr ⟨.inl rfl, cell_store_same _ _ (by decide)⟩
  · omega
  · exact absurd rfl (storeTarget_index hstore).2.1

/-- Settles O57: a step that changes `ISTAT` has an operation, and `exec_istat` says which. -/
theorem statusChangesOnlyAsTheRuleSays : Obligations.StatusChangesOnlyAsTheRuleSays := by
  unfold Obligations.StatusChangesOnlyAsTheRuleSays
  intro s s' h hne
  obtain ⟨-, rfl⟩ | ⟨t, rest, hin, hexec⟩ := step_eq_next h
  · exact absurd rfl hne
  · exact ⟨t, rest, hin, exec_istat (s := { s with input := rest, hostTime := t.host }) hexec hne⟩

/-- What each operation puts out: a TICK its events, an RD its answer, every other operation nothing. -/
theorem exec_output {i : Instr} {s t : State} (h : exec i s = .next t) :
    (t.answers = s.answers ∧ t.irqEvents = s.irqEvents) ∨
      (i = .tick ∧ t.answers = s.answers ∧ t.irqEvents = s.irqEvents + tickEvents Config.hardware s.bank) ∨
      ∃ a v, i = .rd a ∧ t.answers = v :: s.answers ∧ t.irqEvents = s.irqEvents := by
  obtain ⟨-, -, rfl⟩ | ⟨-, -, rfl⟩ | ⟨-, heffect⟩ := exec_eq_next h
  · exact .inl ⟨rfl, rfl⟩
  · exact .inl ⟨rfl, rfl⟩
  · obtain ⟨a, rfl, rfl⟩ | ⟨n, d, -, rfl⟩ | ⟨-, rfl⟩ | ⟨-, rfl⟩ | ⟨-, rfl⟩ | ⟨-, rfl⟩ | ⟨rfl, rfl⟩ := heffect
    case inl => exact .inr (.inr ⟨a, _, rfl, rfl, rfl⟩)
    case inr.inr.inr.inr.inr.inr => exact .inr (.inl ⟨rfl, tick_answers _ _, tick_irqEvents_eq_add _ _⟩)
    all_goals exact .inl ⟨rfl, rfl⟩

theorem tickEvents_eq_zero_or_one (c : Config) (b : Bank) : tickEvents c b = 0 ∨ tickEvents c b = 1 := by
  unfold tickEvents
  split_ifs <;> simp

/-- Settles O58: `exec_output`, and a TICK's events are none or one. -/
theorem onlyTicksEmitEvents : Obligations.OnlyTicksEmitEvents := by
  unfold Obligations.OnlyTicksEmitEvents
  intro s s' h
  obtain ⟨-, rfl⟩ | ⟨t, rest, hin, hexec⟩ := step_eq_next h
  · exact .inl ⟨rfl, rfl⟩
  · obtain hnone | ⟨hop, hanswers, hevents⟩ | hrd := exec_output hexec
    · exact .inl hnone
    · obtain hzero | hone := tickEvents_eq_zero_or_one Config.hardware s.bank
      · exact .inl ⟨hanswers, hevents.trans (by simp [hzero])⟩
      · exact .inr ⟨t, rest, hin, .inl ⟨hop, hanswers, hevents.trans (by simp [hone])⟩⟩
    · exact .inr ⟨t, rest, hin, .inr hrd⟩

end Sys2Proof
end

section
/-! A CORE with alarm month, status and control 0 stays quiet (60_exceptions.md R243, R244). -/

namespace Sys2Proof

open Sys2Proof.Machine Sys2Proof.Claims

/-- An alarm month of 0 is no month and no wildcard. -/
theorem not_alarmMatches_of_month_zero {b : Bank} (hwf : bankWellFormed Config.hardware b = true) (h15 : cell b 15 = 0x00#8) :
    ¬AlarmMatches b := by
  intro hmatch
  have hmon := ((bankWellFormed_iff rfl).mp hwf).mon
  obtain heq | hwild := hmatch (7, 15) (by simp [alarmPairs])
  · rw [← heq, h15] at hmon
    exact absurd hmon (by decide)
  · rw [h15] at hwild
    exact absurd hwild (by decide)

/-- With nothing enabled and no match, a TICK records nothing. -/
theorem tickPending_of_quiet {s : State} (hq : Quiet s) : tickPending Config.hardware s.bank = 0x00#8 := by
  obtain ⟨hwf, h15, -, h17⟩ := hq
  have h15' : cell (tick Config.hardware s).bank 15 = 0x00#8 :=
    (cell_tick _ _ (by simp [cascadeWrites_hardware]) (by decide)).trans h15
  have hmatch := not_alarmMatches_of_month_zero (tick_calendar hwf).1 h15'
  by_contra h
  obtain ⟨n, hn, hbit⟩ := (tickPending_ne_zero_iff s).mp h
  by_cases h0 : n = 0
  · subst h0
    exact hmatch hbit
  · interval_cases n <;> simp [PendingBit, h17] at h0 hbit

theorem tickEvents_of_quiet {s : State} (hq : Quiet s) : tickEvents Config.hardware s.bank = 0 := by
  rw [tickEvents, if_pos (tickPending_of_quiet hq)]

/-- A TICK keeps the quiet whatever the host time, which it does not sample. -/
theorem tick_keeps_quiet {s : State} (hq : Quiet s) :
    Quiet (tick Config.hardware s) ∧ (tick Config.hardware s).irqEvents = s.irqEvents := by
  have hpending := tickPending_of_quiet hq
  have hevents := tickEvents_of_quiet hq
  obtain ⟨hwf, h15, h16, h17⟩ := hq
  have hkept (n : Nat) (hn : ¬((2 ≤ n ∧ n ≤ 7) ∨ n = 14)) (h : n ≠ 16) :
      cell (tick Config.hardware s).bank n = cell s.bank n := cell_tick _ _ (by rwa [cascadeWrites_hardware]) h
  refine ⟨⟨(tick_calendar hwf).1, ?_, ?_, ?_⟩, ?_⟩
  · rw [hkept 15 (by decide) (by decide), h15]
  · rw [cell_tick_istat rfl, h16, hpending]
    rfl
  · rw [hkept 17 (by decide) (by decide), h17]
  · rw [tick_irqEvents_eq_add, hevents, Nat.add_zero]

/-- The alarm month and `ICTRL` are written by a clear or a plain store to them. -/
theorem cases_of_mayWrite_control {i : Instr} {n : Nat} (hn : n = 15 ∨ n = 17) (h : mayWrite i n) :
    (i = .reset ∨ i = .wrRstram) ∨ ∃ d, storeTarget i = some (n, d) := by
  obtain h | h | ⟨-, h⟩ | ⟨-, h⟩ | ⟨-, h⟩ | ⟨-, h⟩ | h := h
  case inl => exact .inl (.inl h)
  case inr.inl => exact .inl (.inr h)
  case inr.inr.inr.inr.inr.inr => exact .inr h
  all_goals omega

theorem exec_keeps_quiet {i : Instr} {s t : State} (hq : Quiet s) (hi : ¬endsQuiet i)
    (hv : HostTime.valid Config.hardware s.hostTime = true) (h : exec i s = .next t) :
    Quiet t ∧ t.irqEvents = s.irqEvents := by
  by_cases htick : i = .tick
  · subst htick
    rw [eq_tick_of_exec h]
    exact tick_keeps_quiet hq
  obtain ⟨hwf, h15, h16, h17⟩ := hq
  rw [endsQuiet, not_or, Bool.not_eq_true] at hi
  obtain ⟨hclock, hstore⟩ := hi
  have hcontrol (n : Nat) (hn : n = 15 ∨ n = 17) (hzero : cell s.bank n = 0x00#8) : cell t.bank n = 0x00#8 := by
    by_cases hclear : i = .reset ∨ i = .wrRstram
    · rw [bank_of_clearAndLoad hclear h]
      exact cell_clearAndLoad_other _ (by omega) (by omega) (by omega)
    · rw [exec_cell_kept h, hzero]
      intro hw
      obtain hc | ⟨d, hd⟩ := cases_of_mayWrite_control hn hw
      · exact hclear hc
      · exact hstore ⟨n, d, hd, hn⟩
  have hstatus : cell t.bank 16 = 0x00#8 := by
    by_cases hkept : cell t.bank 16 = cell s.bank 16
    · rw [hkept, h16]
    · obtain ⟨hi, -⟩ | ⟨-, hzero⟩ := exec_istat h hkept
      · exact absurd hi htick
      · exact hzero
  refine ⟨⟨exec_keeps_wellFormed hwf hclock hv h, hcontrol 15 (by decide) h15, hstatus, hcontrol 17 (by decide) h17⟩, ?_⟩
  obtain ⟨-, hsame⟩ | ⟨hi, -⟩ | ⟨_, _, -, -, hsame⟩ := exec_output h
  · exact hsame
  · exact absurd hi htick
  · exact hsame

/-- Settles O60: every operation by `exec_keeps_quiet`, and TICK, while RUNNING, by `tick_keeps_quiet`. -/
theorem quietCoreStaysQuiet : Obligations.QuietCoreStaysQuiet := by
  unfold Obligations.QuietCoreStaysQuiet
  constructor
  · intro s s' hq hpending h
    obtain ⟨-, rfl⟩ | ⟨t, rest, hin, hexec⟩ := step_eq_next h
    · exact ⟨hq, rfl⟩
    · obtain ⟨hi, hv⟩ := hpending t rest hin
      exact exec_keeps_quiet (s := { s with input := rest, hostTime := t.host }) hq hi hv hexec
  · intro s hl hq
    exact ⟨_, exec_tick_running hl, tick_keeps_quiet hq⟩

theorem quiet_clearAndLoad {s : State} {h : HostTime} (hv : HostTime.valid Config.hardware h = true)
    (hbank : s.bank = clearAndLoad Config.hardware h) : Quiet s := by
  rw [Quiet, hbank]
  exact ⟨bankWellFormed_load hv zeroBank, cell_clearAndLoad_other h (by decide) (by decide) (by decide),
    cell_clearAndLoad_other h (by decide) (by decide) (by decide),
    cell_clearAndLoad_other h (by decide) (by decide) (by decide)⟩

/-- Settles O59: a valid RESET leaves a quiet CORE, and each TICK keeps it so. -/
theorem freshCoreStaysSilent : Obligations.FreshCoreStaysSilent := by
  unfold Obligations.FreshCoreStaysSilent
  intro n s s₁ hopen hv hreset hticks
  rw [exec_reset_open hopen, Host.Outcome.next.injEq] at hreset
  subst hreset
  have hquiet : Quiet ((s.withBank (clearAndLoad Config.hardware s.hostTime)).withLife .running) :=
    quiet_clearAndLoad hv rfl
  obtain ⟨t, hrun, -, -, ⟨-, -, hstatus, -⟩, hevents⟩ :=
    run_ticks (k := 0) (P := fun _ u => Quiet u ∧ u.irqEvents = s.irqEvents)
      (fun _ u rest host ⟨hq, he⟩ =>
        (tick_keeps_quiet (s := { u with input := rest, hostTime := host }) hq).imp id fun h => h.trans he)
      n rfl hticks ⟨hquiet, rfl⟩
  exact ⟨t, hrun, hstatus, hevents⟩

end Sys2Proof
end

section
/-! Between operations the CORE keeps nothing but the bank and `life` (10_state.md R41, R43). -/

namespace Sys2Proof

open Sys2Proof.Machine Sys2Proof.Claims

/-- States that agree on `life` are admitted or refused alike. -/
theorem sameOutcome_whenRunning {s₁ s₂ t₁ t₂ : State} (hl : s₁.life = s₂.life)
    (h : SameOutcome s₁ s₂ (.next t₁) (.next t₂)) : SameOutcome s₁ s₂ (whenRunning s₁ t₁) (whenRunning s₂ t₂) := by
  unfold whenRunning
  rw [hl]
  cases s₂.life with
  | running => exact h
  | uninit => exact rfl
  | closed => exact rfl

theorem sameOutcome_unlessClosed {s₁ s₂ t₁ t₂ : State} (hl : s₁.life = s₂.life)
    (h : SameOutcome s₁ s₂ (.next t₁) (.next t₂)) : SameOutcome s₁ s₂ (unlessClosed s₁ t₁) (unlessClosed s₂ t₂) := by
  unfold unlessClosed
  rw [hl]
  cases s₂.life with
  | running => exact h
  | uninit => exact h
  | closed => exact rfl

/-- Two next states with the same bank and `life` that put nothing out. -/
theorem sameOutcome_silent {s₁ s₂ t₁ t₂ : State} (hbank : t₁.bank = t₂.bank) (hlife : t₁.life = t₂.life)
    (ha₁ : t₁.answers = s₁.answers) (ha₂ : t₂.answers = s₂.answers) (he₁ : t₁.irqEvents = s₁.irqEvents)
    (he₂ : t₂.irqEvents = s₂.irqEvents) : SameOutcome s₁ s₂ (.next t₁) (.next t₂) :=
  ⟨hbank, hlife, ⟨[], ha₁, ha₂⟩, 0, he₁, he₂⟩

/-- Settles O27: each operation's next state is a function of the bank, `life` and, for a Load, the host time, and what it puts out
is one of the bank. -/
theorem coreKeepsOnlyBankAndLife : Obligations.CoreKeepsOnlyBankAndLife := by
  unfold Obligations.CoreKeepsOnlyBankAndLife
  intro i s₁ s₂ hbank hl hhost
  cases i
  case rd a =>
    refine sameOutcome_whenRunning hl ⟨hbank, hl, ⟨[s₁.read (rdIndex a)], rfl, ?_⟩, 0, rfl, rfl⟩
    rw [State.read, ← hbank]
    rfl
  case tick =>
    refine sameOutcome_whenRunning hl ⟨?_, ?_, ⟨[], ?_, ?_⟩, tickEvents Config.hardware s₁.bank, ?_, ?_⟩
    · rw [tick_bank, tick_bank, hbank]
    · rw [tick_life, tick_life, hl]
    · exact tick_answers _ _
    · exact tick_answers _ _
    · exact tick_irqEvents_eq_add _ _
    · rw [hbank]
      exact tick_irqEvents_eq_add _ _
  case reset =>
    rw [exec_reset, exec_reset, hhost (.inl rfl)]
    exact sameOutcome_unlessClosed hl (sameOutcome_silent rfl rfl rfl rfl rfl rfl)
  case close => exact sameOutcome_unlessClosed hl (sameOutcome_silent hbank rfl rfl rfl rfl rfl)
  case reserved5 => exact rfl
  case reserved67 => exact rfl
  case wrRstram =>
    rw [exec_wrRstram, exec_wrRstram, hhost (.inr (.inl rfl))]
    exact sameOutcome_whenRunning hl (sameOutcome_silent rfl hl rfl rfl rfl rfl)
  case wrGo =>
    rw [exec_wrGo, exec_wrGo, hhost (.inr (.inr rfl)), hbank]
    exact sameOutcome_whenRunning hl (sameOutcome_silent rfl hl rfl rfl rfl rfl)
  case wrRstcnt =>
    refine sameOutcome_whenRunning hl (sameOutcome_silent ?_ hl rfl rfl rfl rfl)
    rw [write_bank, write_bank, write_bank, write_bank, hbank]
  all_goals
    refine sameOutcome_whenRunning hl (sameOutcome_silent ?_ hl rfl rfl rfl rfl)
    rw [write_bank, write_bank, hbank]

end Sys2Proof
end
